-- ==== Sys2Proof/Word.lean ====
section
/-! DEFINITION. The word types of BC5CORE: the widths of spec/00_scope.md R7 and R8 and nothing else.
A sample, endpoint, palette entry or pixel component is one byte (R7 SAMPLE_BITS = 8), a dimension is
32 bits (R7 DIM_BITS), an index is 3 bits (R7 INDEX_BITS), and a buffer address, SRC_LEN or DST_LEN has
LEN_BITS = 66 bits (R8, the default, which R8 lets the model use; DESIGN CHOICE, assumption log 2). -/

namespace Sys2Proof

/-- One byte: R9, always unsigned. -/
abbrev Byte := BitVec 8

/-- Width or height: R7 DIM_BITS = 32, R28. -/
abbrev Dim := BitVec 32

/-- SRC_LEN, DST_LEN and every buffer address: R8 LEN_BITS = 66. -/
abbrev Len := BitVec 66

/-- One index of an EncodedBlock: R7 INDEX_BITS = 3. -/
abbrev Index := BitVec 3

end Sys2Proof
end

