-- ==== Sys2Proof/Config.lean ====
section
/-! DEFINITION. What an implementation of BC5CORE fixes (the parameters of spec/00_scope.md R8) and the
free values: bytes the spec leaves unspecified, as constants with no body, so that nothing can be proved
of their values (spec/93_implementation_defined.md U5, U7, U9). -/

namespace Sys2Proof

/-- R8 MODE_TIE: which candidate BLK_ENC takes when both have the same squared error (R150), one choice for the whole
machine (DESIGN CHOICE, assumption log 16). -/
inductive ModeTie where
  | eight
  | six
  deriving DecidableEq, Repr

/-- R8 ROUND_HALF: the direction of the one rounding tie of the core (R224). -/
inductive RoundHalf where
  | up
  | down
  deriving DecidableEq, Repr

/-- The parameters of R8 that a run can show. LEN_BITS is the width of `Len` (DESIGN CHOICE, assumption log 2), LANES is
unobservable (R250) and the register bus is not modelled (R8). The capacities are `Len` values, so that
no capacity exceeds `2^LEN_BITS - 1`. -/
structure Params where
  srcCap    : Len
  dstCap    : Len
  modeTie   : ModeTie
  roundHalf : RoundHalf
  deriving DecidableEq, Repr

/-- The defaults of R8: SRC_CAP = DST_CAP = `2^LEN_BITS - 1`, MODE_TIE = EIGHT, ROUND_HALF = UP. -/
def Params.default : Params :=
  { srcCap := BitVec.allOnes 66, dstCap := BitVec.allOnes 66, modeTie := .eight, roundHalf := .up }

/-- FREE VALUE (DESIGN CHOICE, assumption log 3). What SRC holds at an address the HOST has not written since the reset
numbered by the first argument: R35 and R260 "unspecified", U5 and U9 "any value". -/
opaque Config.srcPowerOn : Nat → Nat → BitVec 8

/-- FREE VALUE (DESIGN CHOICE, assumption log 3). What DST holds at an address nothing has written since the reset
numbered by the first argument: R35, R260, U9. -/
opaque Config.dstPowerOn : Nat → Nat → BitVec 8

/-- FREE VALUE (DESIGN CHOICE, assumption log 4). The n-th byte a HOST read of DST returns while the CORE owns the
buffers: R37, R266 "an unspecified byte", U7 "any value". -/
opaque Config.dstWhileOwned : Nat → BitVec 8

/-- FREE VALUE (DESIGN CHOICE, assumption log 22). Whether the n-th byte the HOST writes to DST while the CORE owns the
buffers survives: R266 "may or may not survive". -/
opaque Config.dstWriteSurvives : Nat → Bool

/-- FREE VALUE (DESIGN CHOICE, assumption log 22). The n-th output byte of an operation whose SRC the HOST wrote while the
CORE owned it: R266 "the result is then unspecified", U6 "`any value` of the right length". -/
opaque Config.spoiltByte : Nat → BitVec 8

/-- FREE VALUE (DESIGN CHOICE, assumption log 22). The n-th dimension a decode left in WIDTH or HEIGHT, its SRC written by
the HOST while the CORE owned it: R266 "the result is then unspecified". -/
opaque Config.spoiltDim : Nat → BitVec 32

end Sys2Proof
end

