-- ==== Sys2Proof/Syntax.lean ====
section
/-! DEFINITION. The syntax of what drives BC5CORE: one constructor of `Instr` per row of
spec/opcode_table.json, the raw requests the HOST puts on its side of the interface (before decoding), and
the HOST's actions (spec/30_encoding.md R108, R109; spec/70_reset_and_hazards.md R264, R265).

The rows of format CMD are operations: R38 lets a model take an operation as one atomic transition at the
CMD write; the HOST's STATUS read, with which R109's `RUN` ends, is an action of its own. The rows of format REGISTER are the HOST's accesses to that register
(R24); a write of CMD through REG_CMD is the start step alone (R36), after which the CORE moves by
itself (DESIGN CHOICE, assumption log 12). The rows of format DATA are layouts, not operations; their constructor is the HOST's placing of
one datum of that layout in SRC (R108 `PUT SRC`, R264 step 1; DESIGN CHOICE, assumption log 5). -/

namespace Sys2Proof

/-- The running operation, SEQ.OP of R30: the nine of R100, and the illegal operation of R25 and R233. -/
inductive Op where
  | hdrEnc | hdrDec | blkEnc | blkDec | plnEnc | plnDec | imgEnc | imgDec | blue | illegal
  deriving DecidableEq, Repr

/-- One HOST access to a register: `RD` or `WR` of R108. The width of the bus is OPEN (R8), so a written
value is a natural number, of which each register keeps its implemented bits (DESIGN CHOICE, assumption log 6). -/
inductive RegAccess where
  | read
  | write (v : Nat)
  deriving DecidableEq, Repr

/-- An ENCODEDBLOCK as fields (R94): two endpoints and the sixteen 3-bit indices, index 0 first. -/
structure EncodedBlock where
  e0  : Byte
  e1  : Byte
  idx : List Index
  deriving DecidableEq, Repr

/-- The rows of spec/opcode_table.json. -/
inductive Instr where
  -- format CMD: the nine operations (R100)
  | hdrEnc
  | hdrDec
  | blkEnc
  | blkDec
  | plnEnc
  | plnDec
  | imgEnc
  | imgDec
  | blue
  -- format CMD: the reserved values (R101, R233)
  | reserved0
  | reserved10
  | reserved11
  | reserved12
  | reserved13
  | reserved14
  | reserved15
  | reservedUpper (op : BitVec 4) (zero : BitVec 28)
  -- format DATA: one datum placed in SRC at address `a` (R91, R94, R96, R97)
  | header (a : Len) (w h : Dim)
  | encodedBlock (a : Len) (b : EncodedBlock)
  | stream (a : Len) (w h : Dim) (body : List (EncodedBlock × EncodedBlock))
  | pixel (a : Len) (r g b al : Byte)
  -- format REGISTER: one access to that register (R24)
  | regCmd (x : RegAccess)
  | regStatus (x : RegAccess)
  | regWidth (x : RegAccess)
  | regHeight (x : RegAccess)
  | regBluemode (x : RegAccess)
  | regSrcLen (x : RegAccess)
  | regDstLen (x : RegAccess)
  deriving DecidableEq, Repr

/-- What the HOST says the bytes of a `PUT SRC` are: one of the four layouts of format DATA, or plain
bytes (an image, plane or sample buffer, or anything else: R61 to R63, R68). -/
inductive DataFormat where
  | header
  | encodedBlock
  | stream
  | pixel
  | plain
  deriving DecidableEq, Repr

/-- A HOST request before decoding. -/
inductive Request where
  /-- A 32-bit value written to CMD, the operation run to its completion step (R38). -/
  | cmd (c : BitVec 32)
  /-- `RD` of the register of that number (R24, R108). -/
  | regRead (n : Nat)
  /-- `WR` to the register of that number (R24, R108). -/
  | regWrite (n : Nat) (v : Nat)
  /-- `PUT SRC`, the bytes said to be of the given layout (R108). -/
  | put (f : DataFormat) (a : Len) (bs : List Byte)
  deriving DecidableEq, Repr

/-- What the HOST does next (R108, R264, R265). That one deterministic step takes the HOST's actions from a list in the
state is the model's (DESIGN CHOICE, assumption log 1). -/
inductive HostAction where
  /-- A request, decoded and executed. -/
  | request (r : Request)
  /-- `GET DST, a, n` (R108). -/
  | getDst (a : Len) (n : Nat)
  /-- A HOST read of SRC, which R27 allows. -/
  | getSrc (a : Len) (n : Nat)
  /-- A HOST write of DST, which R27 allows. -/
  | putDst (a : Len) (bs : List Byte)
  /-- `WAIT`: read STATUS until BUSY = 0 (R108). -/
  | wait
  /-- The HOST does nothing for one step: the CORE moves if it is BUSY. -/
  | idle
  /-- The reset input is asserted (R260). -/
  | reset
  deriving DecidableEq, Repr

end Sys2Proof
end

