-- ==== Sys2Proof/Machine/Formats.lean ====
section
/-! DEFINITION. The data formats of BC5CORE bit for bit (spec/30_encoding.md R90 to R97) and the addresses
of the buffer layouts (spec/20_memory.md R60 to R68), with the byte-order primitives of
spec/00_scope.md R12. The decoder, the operations and the sequencer all use these. -/

namespace Sys2Proof.Machine

/-- `cdiv4(n)` of R12. -/
def cdiv4 (n : Nat) : Nat := (n + 3) / 4

/-- The number of block positions, `cdiv4(w) * cdiv4(h)` (R180). -/
def blockCount (w h : Dim) : Nat := cdiv4 w.toNat * cdiv4 h.toNat

/-- `be32` of R12: the most significant byte first. -/
def be32 (v : BitVec 32) : List Byte :=
  [v.extractLsb' 24 8, v.extractLsb' 16 8, v.extractLsb' 8 8, v.extractLsb' 0 8]

/-- `unbe32` of R12 on four bytes, the first the most significant. -/
def unbe32 (b0 b1 b2 b3 : Byte) : BitVec 32 :=
  BitVec.ofNat 32 (b0.toNat * 2 ^ 24 + b1.toNat * 2 ^ 16 + b2.toNat * 2 ^ 8 + b3.toNat)

/-- MAGIC of R120. -/
def magic : List Byte := [0x42#8, 0x43#8, 0x35#8, 0x20#8]

/-- `hdr_bytes(w, h)` of R121. -/
def hdrBytes (w h : Dim) : List Byte := magic ++ be32 w ++ be32 h

/-- `hdr_parse(B)` of R123: `none` is its FormatError. -/
def hdrParse : List Byte → Option (Dim × Dim × List Byte)
  | m0 :: m1 :: m2 :: m3 :: w0 :: w1 :: w2 :: w3 :: h0 :: h1 :: h2 :: h3 :: rem =>
    if [m0, m1, m2, m3] = magic then some (unbe32 w0 w1 w2 w3, unbe32 h0 h1 h2 h3, rem) else none
  | _ => none

/-- The 48-bit field of sixteen indices, index 0 in the low bits (R94, R151): the sum over k of
`idx[k] << 3*k`, from the last index down. -/
def bits48OfIndices (idx : List Index) : Nat := idx.foldr (fun i acc => i.toNat + 2 ^ 3 * acc) 0

/-- The same field from its six bytes, the first byte in the low bits (R94, R152). -/
def bits48OfBytes (bs : List Byte) : Nat := bs.foldr (fun b acc => b.toNat + 2 ^ 8 * acc) 0

/-- `pack` of R151. -/
def pack (b : EncodedBlock) : List Byte :=
  b.e0 :: b.e1 :: (List.range 6).map fun m => BitVec.ofNat 8 (bits48OfIndices b.idx >>> (8 * m))

/-- `unpack` of R152. -/
def unpack (bs : List Byte) : EncodedBlock :=
  { e0 := bs.getD 0 0
    e1 := bs.getD 1 0
    idx := (List.range 16).map fun k =>
      BitVec.ofNat 3 (bits48OfBytes ((bs.drop 2).take 6) >>> (3 * k)) }

/-- PIXEL of R97: R, G, B, A at ascending addresses. -/
def pixelBytes (r g b al : Byte) : List Byte := [r, g, b, al]

/-- The body of a STREAM (R66, R96): per block position the red sub-block, then the green. -/
def bodyBytes (body : List (EncodedBlock × EncodedBlock)) : List Byte :=
  body.flatMap fun p => pack p.1 ++ pack p.2

/-- STREAM of R96: the header, then the body. -/
def streamBytes (w h : Dim) (body : List (EncodedBlock × EncodedBlock)) : List Byte :=
  hdrBytes w h ++ bodyBytes body

/-- The sub-block pairs of `n` block positions of a stream's body (R96). -/
def splitBody : Nat → List Byte → List (EncodedBlock × EncodedBlock)
  | 0, _ => []
  | n + 1, bs => (unpack (bs.take 8), unpack ((bs.drop 8).take 8)) :: splitBody n (bs.drop 16)

/-- `addr_px` of R61: component `c` of pixel `(x, y)` in an image buffer of width `w`. -/
def addrPx (w x y c : Nat) : Nat := 4 * (y * w + x) + c

/-- `addr_pl` of R62: sample `(x, y)` in a plane buffer of width `w`. -/
def addrPl (w x y : Nat) : Nat := y * w + x

/-- `addr_pb` of R65: block `(br, bc)` in a plane block stream of `cols` block columns. -/
def addrPb (cols br bc : Nat) : Nat := 8 * (br * cols + bc)

/-- `addr_sb` of R66: the sub-block of channel `ch` (0 red, 1 green) of block position `(br, bc)`. -/
def addrSb (cols br bc ch : Nat) : Nat := 12 + 16 * (br * cols + bc) + 8 * ch

end Sys2Proof.Machine
end

