-- ==== Sys2Proof/WellFormed.lean ====
section
/-! DEFINITION. Which terms of `Instr` stand for something the spec's formats can say: RESERVED_UPPER has a 1
in bits 31:4 (its row of spec/opcode_table.json), an EncodedBlock has exactly sixteen indices (R94), and a
STREAM has one pair of sub-blocks per block position of its own dimensions (R96). -/

namespace Sys2Proof

/-- Sixteen indices (R94). -/
def EncodedBlock.wellFormed (b : EncodedBlock) : Bool := b.idx.length == 16

/-- The checks on an instruction's fields; every other row has fields of the exact width. -/
def Instr.wellFormed : Instr → Bool
  | .reservedUpper _ zero => zero != 0#28
  | .encodedBlock _ b => b.wellFormed
  | .stream _ w h body =>
    body.length == Machine.blockCount w h && body.all fun p => p.1.wellFormed && p.2.wellFormed
  | .hdrEnc | .hdrDec | .blkEnc | .blkDec | .plnEnc | .plnDec | .imgEnc | .imgDec | .blue
  | .reserved0 | .reserved10 | .reserved11 | .reserved12 | .reserved13 | .reserved14 | .reserved15
  | .header _ _ _ | .pixel _ _ _ _ _
  | .regCmd _ | .regStatus _ | .regWidth _ | .regHeight _ | .regBluemode _ | .regSrcLen _
  | .regDstLen _ => true

end Sys2Proof
end

