-- ==== Sys2Proof/Decode.lean ====
section
/-! DEFINITION. The decoder, total on every request of the HOST and rejecting by name, and the encoder,
written from the same tables: the operation codes of spec/30_encoding.md R100 and R101, the register
numbers of spec/10_state.md R24, the data formats of R91, R94, R96 and R97. -/

namespace Sys2Proof

open Machine

/-- Why a request has no row in spec/opcode_table.json. None of these stops the machine: a reserved register
reads 0 and ignores writes (R24), and bytes of no listed layout are put in SRC as they are (R108). -/
inductive Reject where
  /-- Register numbers 7 and above are reserved (R24). -/
  | reservedRegister
  /-- Plain bytes: no layout was named. -/
  | plainBytes
  /-- The bytes are not as many as the layout has (R90). -/
  | wrongLength
  /-- The first four bytes are not MAGIC (R92). -/
  | wrongMagic
  deriving DecidableEq, Repr

/-- The operation a 32-bit CMD value selects (R25, R100, R101); every value outside 1 to 9 is reserved. -/
def decodeCmd (c : BitVec 32) : Instr :=
  if c.extractLsb' 4 28 ≠ 0#28 then .reservedUpper (c.extractLsb' 0 4) (c.extractLsb' 4 28)
  else match (c.extractLsb' 0 4).toNat with
    | 1 => .hdrEnc
    | 2 => .hdrDec
    | 3 => .blkEnc
    | 4 => .blkDec
    | 5 => .plnEnc
    | 6 => .plnDec
    | 7 => .imgEnc
    | 8 => .imgDec
    | 9 => .blue
    | 10 => .reserved10
    | 11 => .reserved11
    | 12 => .reserved12
    | 13 => .reserved13
    | 14 => .reserved14
    | 15 => .reserved15
    | _ => .reserved0

/-- The register of a number (R24). -/
def decodeReg (n : Nat) (x : RegAccess) : Except Reject Instr :=
  match n with
  | 0 => .ok (.regCmd x)
  | 1 => .ok (.regStatus x)
  | 2 => .ok (.regWidth x)
  | 3 => .ok (.regHeight x)
  | 4 => .ok (.regBluemode x)
  | 5 => .ok (.regSrcLen x)
  | 6 => .ok (.regDstLen x)
  | _ => .error .reservedRegister

/-- HEADER (R91): twelve bytes, the first four MAGIC. -/
def decodeHeader (a : Len) (bs : List Byte) : Except Reject Instr :=
  if bs.length ≠ 12 then .error .wrongLength
  else match hdrParse bs with
    | some (w, h, _) => .ok (.header a w h)
    | none => .error .wrongMagic

/-- STREAM (R96): a header, then sixteen bytes per block position and nothing else. -/
def decodeStream (a : Len) (bs : List Byte) : Except Reject Instr :=
  if bs.length < 12 then .error .wrongLength
  else match hdrParse bs with
    | some (w, h, rem) =>
      if rem.length = 16 * blockCount w h then .ok (.stream a w h (splitBody (blockCount w h) rem))
      else .error .wrongLength
    | none => .error .wrongMagic

/-- The bytes of a `PUT SRC`, read as the layout the HOST names. -/
def decodeData (f : DataFormat) (a : Len) (bs : List Byte) : Except Reject Instr :=
  match f with
  | .header => decodeHeader a bs
  | .encodedBlock => if bs.length = 8 then .ok (.encodedBlock a (unpack bs)) else .error .wrongLength
  | .stream => decodeStream a bs
  | .pixel =>
    match bs with
    | [r, g, b, al] => .ok (.pixel a r g b al)
    | _ => .error .wrongLength
  | .plain => .error .plainBytes

/-- The decoder. -/
def decode : Request → Except Reject Instr
  | .cmd c => .ok (decodeCmd c)
  | .regRead n => decodeReg n .read
  | .regWrite n v => decodeReg n (.write v)
  | .put f a bs => decodeData f a bs

/-- A register access as a request. -/
def encodeReg (n : Nat) : RegAccess → Request
  | .read => .regRead n
  | .write v => .regWrite n v

/-- The encoder: the CMD value, register number or bytes of an instruction. -/
def encode : Instr → Request
  | .hdrEnc => .cmd 0x00000001#32
  | .hdrDec => .cmd 0x00000002#32
  | .blkEnc => .cmd 0x00000003#32
  | .blkDec => .cmd 0x00000004#32
  | .plnEnc => .cmd 0x00000005#32
  | .plnDec => .cmd 0x00000006#32
  | .imgEnc => .cmd 0x00000007#32
  | .imgDec => .cmd 0x00000008#32
  | .blue => .cmd 0x00000009#32
  | .reserved0 => .cmd 0x00000000#32
  | .reserved10 => .cmd 0x0000000A#32
  | .reserved11 => .cmd 0x0000000B#32
  | .reserved12 => .cmd 0x0000000C#32
  | .reserved13 => .cmd 0x0000000D#32
  | .reserved14 => .cmd 0x0000000E#32
  | .reserved15 => .cmd 0x0000000F#32
  | .reservedUpper op zero => .cmd (zero ++ op)
  | .header a w h => .put .header a (hdrBytes w h)
  | .encodedBlock a b => .put .encodedBlock a (pack b)
  | .stream a w h body => .put .stream a (streamBytes w h body)
  | .pixel a r g b al => .put .pixel a (pixelBytes r g b al)
  | .regCmd x => encodeReg 0 x
  | .regStatus x => encodeReg 1 x
  | .regWidth x => encodeReg 2 x
  | .regHeight x => encodeReg 3 x
  | .regBluemode x => encodeReg 4 x
  | .regSrcLen x => encodeReg 5 x
  | .regDstLen x => encodeReg 6 x

/-- The low `n` bytes of a number, the lowest first: how the opcode table's bit numbering lays out the
bytes of a DATA row (byte 0 is bits 7:0). -/
def bytesOfNat (n w : Nat) : List Byte := (List.range n).map fun k => BitVec.ofNat 8 (w >>> (8 * k))

/-- The request an opcode-table word stands for, by the number of bits its row has (DESIGN CHOICE, assumption log 7).
32 bits are a CMD value (R101); 64 an ENCODEDBLOCK (R94), 96 a HEADER (R91) and 224 or more a STREAM of
at least one block position (R96), each put at SRC address 0 (R70); 8 bits are a value written to BLUEMODE
and 72 one written to SRC_LEN, the registers of those widths in whole bytes (R24). -/
def requestOfTableWord (nbits w : Nat) : Option Request :=
  if nbits = 32 then some (.cmd (BitVec.ofNat 32 w))
  else if nbits = 64 then some (.put .encodedBlock 0 (bytesOfNat 8 w))
  else if nbits = 96 then some (.put .header 0 (bytesOfNat 12 w))
  else if nbits = 8 then some (.regWrite 4 w)
  else if nbits = 72 then some (.regWrite 5 w)
  else if 224 ≤ nbits then some (.put .stream 0 (bytesOfNat (nbits / 8) w))
  else none

/-- The instruction the decoder reads from an opcode-table word. -/
def decodeTableWord (nbits w : Nat) : Option Instr :=
  match requestOfTableWord nbits w with
  | some r => (decode r).toOption
  | none => none

end Sys2Proof
end

