-- ==== Sys2Proof/Machine/State.lean ====
section
/-! DEFINITION. Everything the spec gives the machine (spec/10_state.md R21): the registers of R24 (CMD
stores nothing, R25), the buffer spaces of R27, the sequencer position of R30; the ownership window of
spec/70_reset_and_hazards.md R266; and beside them the
model's own fields: the parameters of R8, what the HOST does next, what it last read, and the two counters
that index free values. The datapath registers of R33 are local values of pure functions, as R33 says
(DESIGN CHOICE, assumption log 8). -/

namespace Sys2Proof.Machine

/-- The kinds of error an operation ends in (R230, R231). -/
inductive ErrKind where
  | format
  | dimension
  | illegalCmd
  | capacity
  deriving DecidableEq, Repr

/-- SEQ.PHASE of R30. -/
inductive Phase where
  | check
  | run
  | complete
  deriving DecidableEq, Repr

/-- The sequencer position of R30: the running operation, its phase, the block position `(br, bc)` and the
channel `ch` (0 red, 1 green). -/
structure Seq where
  op    : Op
  phase : Phase
  br    : Nat
  bc    : Nat
  ch    : Nat
  deriving DecidableEq, Repr

/-- The CORE's ownership of SRC and DST (R266): it lasts from the CMD write to the STATUS read that returns DONE = 1.
The two fields say whether WIDTH and HEIGHT hold what a completed decode put there (R267), and so are part of the
result that R266 calls unspecified. -/
structure Window where
  widthOut  : Bool
  heightOut : Bool
  deriving DecidableEq, Repr

/-- The window of an operation that has put nothing in WIDTH and HEIGHT. -/
def Window.plain : Window := { widthOut := false, heightOut := false }

/-- What the HOST's last read returned (R108 `RD`, `GET`; R265 "HOST gets back"): nothing yet, a register's
implemented bits zero-extended (R24), or the bytes of a buffer read. -/
inductive HostIn where
  | nothing
  | value (v : Nat)
  | bytes (bs : List Byte)
  deriving DecidableEq, Repr

/-- A buffer space: the bytes written since reset, by address. Canonical form: addresses strictly rising
(`Memory.wf`). An address that is not listed has no value (R262). -/
abbrev Memory := List Host.Cell

structure State where
  /-- STATUS, register 1 (R26). -/
  status : BitVec 32
  /-- WIDTH, register 2 (R28). -/
  width : Dim
  /-- HEIGHT, register 3 (R28). -/
  height : Dim
  /-- BLUEMODE, register 4 (R29). -/
  blueMode : BitVec 2
  /-- SRC_LEN, register 5 (R31). -/
  srcLen : Len
  /-- DST_LEN, register 6 (R32). -/
  dstLen : Len
  /-- The SRC space (R27). -/
  src : Memory
  /-- The DST space (R27). -/
  dst : Memory
  /-- SEQ (R30), which exists only while an operation runs ("dead outside an operation"; DESIGN CHOICE, assumption
  log 19). -/
  seq : Option Seq
  /-- The ownership window of R266, if one is open: that of the operation started last (DESIGN CHOICE, assumption
  log 25). -/
  window : Option Window
  /-- The implementation's parameters (R8); no step changes them (DESIGN CHOICE, assumption log 13). -/
  params : Params
  /-- What the HOST does next, oldest first (R108); the model's own field (DESIGN CHOICE, assumption log 1). -/
  script : List HostAction
  /-- What the HOST read last; the model's own field (DESIGN CHOICE, assumption log 18). -/
  hostIn : HostIn
  /-- How many resets there have been: the index of the free contents of SRC and DST after a reset (U9; DESIGN CHOICE,
  assumption log 18). -/
  epoch : Nat
  /-- How many free values the window has drawn (R266, U7; DESIGN CHOICE, assumption log 18). -/
  freeCtr : Nat
  deriving DecidableEq, Repr

/-- Why the machine stops. Raised by HOST accesses to the buffers only; no operation raises one (DESIGN CHOICE,
assumption log 14). -/
inductive Fault where
  /-- A HOST access to SRC at an address the space does not have (R27: SRC has SRC_CAP bytes). Raised by the
  DATA rows and by the HOST's other SRC accesses. Safe: the model stops. -/
  | srcOutOfRange
  /-- A HOST access to DST at an address the space does not have (R27: DST has DST_CAP bytes). Raised by the
  HOST's DST accesses. Safe: the model stops. -/
  | dstOutOfRange
  deriving DecidableEq, Repr

/-- What the model does not offer (DESIGN CHOICE, assumption log 15). -/
inductive Refusal where
  /-- An instruction that has no meaning yet; no arm of `exec` answers it. Safe. -/
  | notModelled (mnemonic : String)
  /-- A HOST write to SRC while BUSY = 1: U6 "`refuse`: the model's HOST has no such action". Raised by the
  DATA rows and by a `PUT SRC` of plain bytes. Safe: the model stops. -/
  | srcWriteWhileBusy
  /-- A HOST write to DST while BUSY = 1: U8 "`refuse`". Raised by the HOST's DST write. Safe. -/
  | dstWriteWhileBusy
  deriving DecidableEq, Repr

/-- The machine right after reset (R35, R260): every register 0; no SRC or DST byte has a value; no
operation runs and the HOST owns the buffers. The parameters are the defaults of R8. The HOST has nothing to do (DESIGN CHOICE, assumption log 9). -/
def State.reset : State :=
  { status := 0#32
    width := 0#32
    height := 0#32
    blueMode := 0#2
    srcLen := 0#66
    dstLen := 0#66
    src := []
    dst := []
    seq := none
    window := none
    params := Params.default
    script := []
    hostIn := .nothing
    epoch := 0
    freeCtr := 0 }

end Sys2Proof.Machine
end

