-- ==== Sys2Proof/Machine/Flags.lean ====
section
/-! DEFINITION. STATUS (spec/10_state.md R26) and the error codes (spec/60_exceptions.md R231): the fields,
and the four values a step leaves. -/

namespace Sys2Proof.Machine

/-- ECODE of an error kind (R231). -/
def ErrKind.code : ErrKind → BitVec 32
  | .format => 1#32
  | .dimension => 2#32
  | .illegalCmd => 3#32
  | .capacity => 4#32

/-- IDLE of R26. -/
def statusIdle : BitVec 32 := 0x00#32

/-- BUSY of R26. -/
def statusBusy : BitVec 32 := 0x01#32

/-- DONE_OK of R26. -/
def statusDoneOk : BitVec 32 := 0x02#32

/-- DONE_ERR of R26: `0x06 | (ECODE << 4)`. -/
def statusDoneErr (e : ErrKind) : BitVec 32 := 0x06#32 ||| (e.code <<< 4)

/-- STATUS.BUSY, bit 0. -/
def statusBusyBit (v : BitVec 32) : Bool := v.getLsbD 0

/-- STATUS.DONE, bit 1. -/
def statusDoneBit (v : BitVec 32) : Bool := v.getLsbD 1

/-- STATUS.ERR, bit 2. -/
def statusErrBit (v : BitVec 32) : Bool := v.getLsbD 2

/-- STATUS.ECODE, bits 6:4. -/
def statusEcode (v : BitVec 32) : BitVec 3 := v.extractLsb' 4 3

/-- STATUS.BUSY of a state. -/
def State.busy (s : State) : Bool := statusBusyBit s.status

/-- The seven values of STATUS that occur (R26). -/
def legalStatuses : List (BitVec 32) :=
  [0x00#32, 0x01#32, 0x02#32, 0x16#32, 0x26#32, 0x36#32, 0x46#32]

end Sys2Proof.Machine
end

