-- ==== Sys2Proof/Machine/Ops.lean ====
section
/-! DEFINITION. The named operations over the buffers and the registers: reading and writing SRC and DST
(spec/20_memory.md R72, R73), the start step and the two completion steps of an operation
(spec/10_state.md R36; an error is taken by `raiseError`, spec/60_exceptions.md R236; there is no return
from one, R238), the HOST's register and buffer accesses (R24, R27, R37). -/

namespace Sys2Proof.Machine

/-! ### Memory -/

/-- The byte written at an address since reset, if any. -/
def Memory.read : Memory → Nat → Option Byte
  | [], _ => none
  | c :: m, a => if c.1 = a then some c.2 else Memory.read m a

/-- Writing one byte keeps the addresses rising. -/
def Memory.write : Memory → Nat → Byte → Memory
  | [], a, b => [(a, b)]
  | c :: m, a, b =>
    if a < c.1 then (a, b) :: c :: m
    else if a = c.1 then (a, b) :: m
    else c :: Memory.write m a b

/-- `MemWrite` of R12: a sequence of bytes at ascending addresses. -/
def Memory.writeBytes : Memory → Nat → List Byte → Memory
  | m, _, [] => m
  | m, a, b :: bs => Memory.writeBytes (Memory.write m a b) (a + 1) bs

/-- Bytes written at addresses of their own, one after another. -/
def Memory.writeCells : Memory → List (Nat × Byte) → Memory
  | m, [] => m
  | m, c :: cs => Memory.writeCells (Memory.write m c.1 c.2) cs

/-- Addresses strictly rise from `lo` on. -/
def Memory.wfFrom : Nat → Memory → Bool
  | _, [] => true
  | lo, c :: m => decide (lo ≤ c.1) && Memory.wfFrom (c.1 + 1) m

/-- The canonical form: addresses strictly rising. An unlisted address has no value, so no entry can equal
what an unlisted address reads as. -/
def Memory.wf (m : Memory) : Bool := Memory.wfFrom 0 m

/-- `SRC[a]` (R12). A byte not written since reset is a free value (U5, U9; DESIGN CHOICE, assumption log 3). -/
def State.srcByte (s : State) (a : Nat) : Byte := (s.src.read a).getD (Config.srcPowerOn s.epoch a)

/-- `MemRead(SRC, a, n)` (R12). -/
def State.srcBytes (s : State) (a n : Nat) : List Byte := (List.range n).map fun i => s.srcByte (a + i)

/-- `DST[a]`. A byte not written since reset is a free value (U9; DESIGN CHOICE, assumption log 3). -/
def State.dstByte (s : State) (a : Nat) : Byte := (s.dst.read a).getD (Config.dstPowerOn s.epoch a)

/-- `n` bytes of DST from address `a`. -/
def State.dstBytes (s : State) (a n : Nat) : List Byte := (List.range n).map fun i => s.dstByte (a + i)

/-! ### The life of an operation (R36) -/

/-- What an operation's rule computes once its checks have passed: the output length, the output bytes
(from DST address 0, R70), and the dimensions a decode writes to WIDTH and HEIGHT. -/
structure Completion where
  len  : Nat
  out  : List Byte
  dims : Option (Dim × Dim)
  deriving DecidableEq, Repr

/-- The start step of R36; the CORE owns the buffers from here on (R266). A window still open from the operation before
gives way to this one, and that operation's result leaves the window (DESIGN CHOICE, assumption log 25). -/
def startOperation (op : Op) (s : State) : State :=
  { s with
    status := statusBusy
    seq := some { op := op, phase := .check, br := 0, bc := 0, ch := 0 }
    window := some Window.plain }

/-- TAKING AN ERROR: `raise E` is the error completion step (R36, R236). The window of R266 stays open: in the atomic
form (R38) the CMD write that opened it is the same transition, and an earlier operation's window gives way to it
(DESIGN CHOICE, assumption log 25). -/
def raiseError (e : ErrKind) (s : State) : State :=
  { s with status := statusDoneErr e, dstLen := 0#66, seq := none, window := some Window.plain }

/-- The registers of a successful completion step (R36). The window of R266 stays open, and now covers what the
operation put in WIDTH and HEIGHT, and not what an earlier decode put there (DESIGN CHOICE, assumption log 25). -/
def commitRegisters (c : Completion) (s : State) : State :=
  { s with
    status := statusDoneOk
    dstLen := BitVec.ofNat 66 c.len
    width := (c.dims.map Prod.fst).getD s.width
    height := (c.dims.map Prod.snd).getD s.height
    seq := none
    window := some { widthOut := c.dims.isSome, heightOut := c.dims.isSome } }

/-- The DST writes of an operation (R32, R70). -/
def storeOutput (c : Completion) (s : State) : State := { s with dst := s.dst.writeBytes 0 c.out }

/-- The end of an operation whose rule gave `r`. -/
def finish (r : Except ErrKind Completion) (s : State) : State :=
  match r with
  | .error e => raiseError e s
  | .ok c => commitRegisters c (storeOutput c s)

/-- An operation as one atomic transition at the CMD write (R38); a CMD write while BUSY = 1 is ignored
(R25). -/
def runOperation (body : State → Except ErrKind Completion) (s : State) :
    Host.Outcome State Fault Refusal :=
  if s.busy then .next s else .next (finish (body s) s)

/-! ### HOST accesses -/

/-- A HOST read of a register: the implemented bits zero-extended; CMD and the reserved numbers read 0
(R24). -/
def State.readReg (s : State) (n : Nat) : Nat :=
  match n with
  | 1 => s.status.toNat
  | 2 => s.width.toNat
  | 3 => s.height.toNat
  | 4 => s.blueMode.toNat
  | 5 => s.srcLen.toNat
  | 6 => s.dstLen.toNat
  | _ => 0

/-- The operation a value written to CMD starts (R25, R101). -/
def opOfCmd (c : BitVec 32) : Op :=
  match c.toNat with
  | 1 => .hdrEnc
  | 2 => .hdrDec
  | 3 => .blkEnc
  | 4 => .blkDec
  | 5 => .plnEnc
  | 6 => .plnDec
  | 7 => .imgEnc
  | 8 => .imgDec
  | 9 => .blue
  | _ => .illegal

/-- A HOST write of a register (R24): CMD starts an operation (R25), STATUS, DST_LEN and the reserved
numbers ignore it, the others keep their implemented bits; while BUSY = 1 every write is ignored (R37). From BUSY = 0
on it takes effect, whether or not R266's window is still open: R266 refers to R37 for it, and R25 and R36 start an
operation (DEDUCED, assumption log 23). What the HOST puts in WIDTH or HEIGHT is no result of an operation. -/
def State.writeReg (s : State) (n v : Nat) : State :=
  if s.busy then s
  else match n with
    | 0 => startOperation (opOfCmd (BitVec.ofNat 32 v)) s
    | 2 => { s with
        width := BitVec.ofNat 32 v, window := s.window.map fun w => { w with widthOut := false } }
    | 3 => { s with
        height := BitVec.ofNat 32 v, window := s.window.map fun w => { w with heightOut := false } }
    | 4 => { s with blueMode := BitVec.ofNat 2 v }
    | 5 => { s with srcLen := BitVec.ofNat 66 v }
    | _ => s

/-- The window after a HOST read of a register: the STATUS read that returns DONE = 1 closes it (R266); the registers
know nothing of it (R39). -/
def State.windowAfterRead (s : State) (n : Nat) : Option Window :=
  if n = 1 ∧ statusDoneBit s.status = true then none else s.window

/-- `RD` or `WR` of a register (R24, R37, R39). -/
def accessReg (n : Nat) (x : RegAccess) (s : State) : Host.Outcome State Fault Refusal :=
  match x with
  | .read => .next { s with hostIn := .value (s.readReg n), window := s.windowAfterRead n }
  | .write v => .next (s.writeReg n v)

/-- Whether `n` bytes from address `a` all exist in a space of `cap` bytes (R27). -/
def inRange (cap : Len) (a n : Nat) : Bool := n == 0 || decide (a + n ≤ cap.toNat)

/-- Whether the CORE owns SRC and DST (R266). -/
def State.owned (s : State) : Bool := s.busy || s.window.isSome

/-- What a HOST write to SRC does to the result of the operation whose window is open: its output bytes are any
values of the same length, and so are the dimensions a decode left in WIDTH and HEIGHT (R266 "the result is then
unspecified", U6; that STATUS and DST_LEN stand is DESIGN CHOICE, assumption log 22). -/
def spoilResult (w : Window) (s : State) : State :=
  { s with
    dst := s.dst.writeBytes 0
      ((List.range s.dstLen.toNat).map fun i => Config.spoiltByte (s.freeCtr + i))
    width := if w.widthOut then Config.spoiltDim s.freeCtr else s.width
    height := if w.heightOut then Config.spoiltDim (s.freeCtr + 1) else s.height
    freeCtr := s.freeCtr + s.dstLen.toNat + 2 }

/-- The SRC bytes stored by a HOST write; in an open window the result is spoilt with them (R266), wherever
the bytes go and whatever the operation was: also at or above SRC_LEN, which R268 says is ignored, and after HDR_ENC,
which reads no SRC (DESIGN CHOICE, assumption log 26). -/
def storeSrc (a : Nat) (bs : List Byte) (s : State) : State :=
  match s.window, bs with
  | some w, _ :: _ => spoilResult w { s with src := s.src.writeBytes a bs }
  | _, _ => { s with src := s.src.writeBytes a bs }

/-- `PUT SRC, a, bs` (R108): not offered while BUSY = 1 (U6); faults outside the space (R27). From the completion step
to the STATUS read that returns DONE = 1 it spoils the result (R266). -/
def putSrc (a : Len) (bs : List Byte) (s : State) : Host.Outcome State Fault Refusal :=
  if s.busy then .refused .srcWriteWhileBusy
  else if inRange s.params.srcCap a.toNat bs.length then .next (storeSrc a.toNat bs s)
  else .fault .srcOutOfRange

/-- The bytes a HOST write leaves in DST: those written; in an open window each survives or not (R266). -/
def State.dstAfterWrite (s : State) (a : Nat) (bs : List Byte) : List Byte :=
  if s.window.isSome then
    (List.range bs.length).map fun i =>
      if Config.dstWriteSurvives (s.freeCtr + i) then bs.getD i 0#8 else s.dstByte (a + i)
  else bs

/-- The counter of free values after `n` bytes were moved between the HOST and DST: an owned DST draws one for each
(R266). -/
def State.drawn (s : State) (n : Nat) : Nat := if s.owned then s.freeCtr + n else s.freeCtr

/-- A HOST write of DST, which has no effect on the core (R27); not offered while BUSY = 1 (U8). From the completion
step to the STATUS read that returns DONE = 1 each byte may or may not survive (R266). -/
def putDst (a : Len) (bs : List Byte) (s : State) : Host.Outcome State Fault Refusal :=
  if s.busy then .refused .dstWriteWhileBusy
  else if inRange s.params.dstCap a.toNat bs.length then
    .next { s with
      dst := s.dst.writeBytes a.toNat (s.dstAfterWrite a.toNat bs)
      freeCtr := s.drawn bs.length }
  else .fault .dstOutOfRange

/-- A HOST read of SRC: no side effect, and the CORE never writes SRC (R27, R72; DEDUCED, assumption log 10). -/
def getSrc (a : Len) (n : Nat) (s : State) : Host.Outcome State Fault Refusal :=
  if inRange s.params.srcCap a.toNat n then .next { s with hostIn := .bytes (s.srcBytes a.toNat n) }
  else .fault .srcOutOfRange

/-- The bytes a HOST read of DST returns: while the CORE owns DST each is a free value (R37, R266, U7). -/
def State.dstBytesRead (s : State) (a n : Nat) : List Byte :=
  if s.owned then (List.range n).map fun i => Config.dstWhileOwned (s.freeCtr + i)
  else s.dstBytes a n

/-- `GET DST, a, n` (R108). -/
def getDst (a : Len) (n : Nat) (s : State) : Host.Outcome State Fault Refusal :=
  if inRange s.params.dstCap a.toNat n then
    .next { s with hostIn := .bytes (s.dstBytesRead a.toNat n), freeCtr := s.drawn n }
  else .fault .dstOutOfRange

/-- Asserting the reset input, idle or busy (R260): the state of R35, and SRC and DST without values. The
HOST's own fields and the parameters are no state of the core. -/
def assertReset (s : State) : State :=
  { State.reset with
    params := s.params
    script := s.script
    hostIn := s.hostIn
    epoch := s.epoch + 1
    freeCtr := s.freeCtr }

end Sys2Proof.Machine
end

