-- ==== Sys2Proof/Machine/Operands.lean ====
section
/-! DEFINITION. The operand forms of the operations: the checks on SRC_LEN, the dimensions and the
capacities that stand at the top of every operation's rule (spec/60_exceptions.md R232, R235), and the
header an operation reads from SRC (spec/40_header.md R125, spec/43_image.md R206). -/

namespace Sys2Proof.Machine

/-- `SRC_LEN > SRC_CAP` (R234): the declared input does not fit SRC. -/
def State.inputTooLong (s : State) : Bool := decide (s.params.srcCap.toNat < s.srcLen.toNat)

/-- The output length is greater than DST_CAP (R234). -/
def State.outputTooLong (s : State) (n : Nat) : Bool := decide (s.params.dstCap.toNat < n)

/-- `w = 0 or h = 0`. -/
def zeroArea (w h : Dim) : Bool := w == 0#32 || h == 0#32

/-- The header at the start of SRC: `hdr_parse(SRC[0 .. SRC_LEN-1])` of R123, which reads `SRC[0..11]` at
most and nothing when SRC_LEN < 12 (R125). `none` is FormatError. -/
def State.srcHeader (s : State) : Option (Dim × Dim) :=
  if s.srcLen.toNat < 12 then none else (hdrParse (s.srcBytes 0 12)).map fun p => (p.1, p.2.1)

end Sys2Proof.Machine
end

