-- ==== Sys2Proof/Machine/Block.lean ====
section
/-! DEFINITION. The BLK unit: palettes, the block decoder and encoder, BLK_ENC and BLK_DEC
(spec/41_block.md R140 to R161). The datapath registers of spec/10_state.md R33 are the local values of these
functions. -/

namespace Sys2Proof.Machine

/-- `pal8(e0, e1)` of R143 (DEDUCED, assumption log 20, on R143's bound). -/
def pal8 (e0 e1 : Byte) : List Byte :=
  (List.range 8).map fun i => BitVec.ofNat 8 ((2 * ((7 - i) * e0.toNat + i * e1.toNat) + 7) / 14)

/-- `pal6(e0, e1)` of R144: six steps, then the anchors 0 and 255. -/
def pal6 (e0 e1 : Byte) : List Byte :=
  ((List.range 6).map fun i => BitVec.ofNat 8 ((2 * ((5 - i) * e0.toNat + i * e1.toNat) + 5) / 10))
    ++ [0#8, 255#8]

/-- `palette(e0, e1)` of R145: the mode is the unsigned comparison of the endpoints (R95). -/
def palette (e0 e1 : Byte) : List Byte := if e1 < e0 then pal8 e0 e1 else pal6 e0 e1

/-- Entry `i` of a palette. -/
def paletteEntry (pal : List Byte) (i : Index) : Byte := pal.getD i.toNat 0#8

/-- `blk_decode(B)` of R154. -/
def blkDecode (bs : List Byte) : List Byte :=
  (unpack bs).idx.map (paletteEntry (palette (unpack bs).e0 (unpack bs).e1))

/-- `abs(s - p)` of R147. -/
def absDiff (s p : Byte) : Nat := (s.toNat - p.toNat) + (p.toNat - s.toNat)

/-- `nearest(pal, s)` of R147: the least index whose entry is no further from `s` than any entry. -/
def nearest (pal : List Byte) (s : Byte) : Index :=
  BitVec.ofNat 3 (((List.range 8).find? fun i =>
    (List.range 8).all fun j =>
      decide (absDiff s (pal.getD i 0#8) ≤ absDiff s (pal.getD j 0#8))).getD 0)

/-- `lo` of R141. -/
def blockMin (ss : List Byte) : Byte := ss.foldr (fun s m => if s < m then s else m) 255#8

/-- `hi` of R141. -/
def blockMax (ss : List Byte) : Byte := ss.foldr (fun s m => if m < s then s else m) 0#8

/-- A candidate encoding (R149): the block it stores and its squared error. -/
structure Candidate where
  block : EncodedBlock
  sse   : Nat
  deriving DecidableEq, Repr

/-- `sse` of R148: the sum of the squared differences from the chosen entries. -/
def squaredError (pal : List Byte) (ss : List Byte) : Nat :=
  (ss.map fun s => absDiff s (paletteEntry pal (nearest pal s)) ^ 2).sum

/-- The candidate with endpoints `e0`, `e1`: its own index assignment and its own error (R147 to R149). -/
def candidate (e0 e1 : Byte) (ss : List Byte) : Candidate :=
  { block := { e0 := e0, e1 := e1, idx := ss.map (nearest (palette e0 e1)) }
    sse := squaredError (palette e0 e1) ss }

/-- Mode selection (R150): the smaller error; on equality, MODE_TIE. -/
def chooseMode (tie : ModeTie) (c8 c6 : Candidate) : Candidate :=
  if c8.sse < c6.sse then c8
  else if c6.sse < c8.sse then c6
  else match tie with
    | .eight => c8
    | .six => c6

/-- The EncodedBlock of sixteen samples (R142, R150, R153). -/
def encodeSamples (tie : ModeTie) (ss : List Byte) : EncodedBlock :=
  if blockMin ss = blockMax ss then
    { e0 := blockMin ss, e1 := blockMin ss, idx := List.replicate 16 0#3 }
  else
    (chooseMode tie (candidate (blockMax ss) (blockMin ss) ss)
      (candidate (blockMin ss) (blockMax ss) ss)).block

/-- `blk_encode(S)` of R153. -/
def blkEncode (tie : ModeTie) (ss : List Byte) : List Byte := pack (encodeSamples tie ss)

/-- The pseudocode of R155. -/
def blkEncBody (s : State) : Except ErrKind Completion :=
  if s.inputTooLong then .error .capacity
  else if s.srcLen.toNat ≠ 16 then .error .dimension
  else if s.outputTooLong 8 then .error .capacity
  else .ok { len := 8, out := blkEncode s.params.modeTie (s.srcBytes 0 16), dims := none }

/-- BLK_ENC. -/
def execBlkEnc (s : State) : Host.Outcome State Fault Refusal := runOperation blkEncBody s

/-- The pseudocode of R156. -/
def blkDecBody (s : State) : Except ErrKind Completion :=
  if s.inputTooLong then .error .capacity
  else if s.srcLen.toNat ≠ 8 then .error .format
  else if s.outputTooLong 16 then .error .capacity
  else .ok { len := 16, out := blkDecode (s.srcBytes 0 8), dims := none }

/-- BLK_DEC. -/
def execBlkDec (s : State) : Host.Outcome State Fault Refusal := runOperation blkDecBody s

end Sys2Proof.Machine
end

