-- ==== Sys2Proof/Machine/Blue.lean ====
section
/-! DEFINITION. The BLU unit: the blue function and BLUE (spec/44_blue.md R220 to R227). -/

namespace Sys2Proof.Machine

/-- The bits of `isqrt(n)` from bit `k - 1` down, `t` found so far. -/
def isqrtFrom (n : Nat) : Nat → Nat → Nat
  | 0, t => t
  | k + 1, t => if (t + 2 ^ k) * (t + 2 ^ k) ≤ n then isqrtFrom n k (t + 2 ^ k) else isqrtFrom n k t

/-- `isqrt(n)` of R12: the largest `t` with `t*t <= n`. -/
def isqrt (n : Nat) : Nat := isqrtFrom n (n.log2 / 2 + 1) 0

/-- `N` of R224. -/
def normalN (r g : Byte) : Int :=
  let a : Int := 2 * (r.toNat : Int) - 255
  let b : Int := 2 * (g.toNat : Int) - 255
  65025 - a * a - b * b

/-- Mode ComputeNormal (R224). -/
def blueNormal (half : RoundHalf) (r g : Byte) : Byte :=
  if 0 < normalN r g then BitVec.ofNat 8 ((256 + isqrt (normalN r g).toNat) / 2)
  else match half with
    | .up => 128#8
    | .down => 127#8

/-- `blue(mode, r, g)` of R225. -/
def blue (half : RoundHalf) (mode : BitVec 2) (r g : Byte) : Byte :=
  match mode.toNat with
  | 0 => 0#8
  | 1 => 255#8
  | 2 => r
  | _ => blueNormal half r g

/-- The pseudocode of R227. -/
def blueBody (s : State) : Except ErrKind Completion :=
  if s.inputTooLong then .error .capacity
  else if s.srcLen.toNat ≠ 2 then .error .dimension
  else if s.outputTooLong 1 then .error .capacity
  else .ok
    { len := 1
      out := [blue s.params.roundHalf s.blueMode (s.srcByte 0) (s.srcByte 1)]
      dims := none }

/-- BLUE. -/
def execBlue (s : State) : Host.Outcome State Fault Refusal := runOperation blueBody s

end Sys2Proof.Machine
end

