-- ==== Sys2Proof/Machine/Data.lean ====
section
/-! DEFINITION. The rows of format DATA: the HOST places one datum of the layout in SRC
(spec/30_encoding.md R108 `PUT SRC`, spec/70_reset_and_hazards.md R264 step 1; DESIGN CHOICE, assumption log 5). -/

namespace Sys2Proof.Machine

/-- HEADER: twelve bytes at `a` (R91). -/
def execHeader (a : Len) (w h : Dim) (s : State) : Host.Outcome State Fault Refusal :=
  putSrc a (hdrBytes w h) s

/-- ENCODEDBLOCK: eight bytes at `a` (R94). -/
def execEncodedBlock (a : Len) (b : EncodedBlock) (s : State) : Host.Outcome State Fault Refusal :=
  putSrc a (pack b) s

/-- STREAM: the header and the sub-block pairs at `a` (R96). -/
def execStream (a : Len) (w h : Dim) (body : List (EncodedBlock × EncodedBlock)) (s : State) :
    Host.Outcome State Fault Refusal :=
  putSrc a (streamBytes w h body) s

/-- PIXEL: four bytes at `a` (R97). -/
def execPixel (a : Len) (r g b al : Byte) (s : State) : Host.Outcome State Fault Refusal :=
  putSrc a (pixelBytes r g b al) s

end Sys2Proof.Machine
end

