-- ==== Sys2Proof/Machine/Header.lean ====
section
/-! DEFINITION. The HDR unit: HDR_ENC and HDR_DEC (spec/40_header.md R122, R125). -/

namespace Sys2Proof.Machine

/-- The pseudocode of R122. -/
def hdrEncBody (s : State) : Except ErrKind Completion :=
  if s.outputTooLong 12 then .error .capacity
  else .ok { len := 12, out := hdrBytes s.width s.height, dims := none }

/-- HDR_ENC. -/
def execHdrEnc (s : State) : Host.Outcome State Fault Refusal := runOperation hdrEncBody s

/-- The pseudocode of R125. -/
def hdrDecBody (s : State) : Except ErrKind Completion :=
  if s.inputTooLong then .error .capacity
  else match s.srcHeader with
    | none => .error .format
    | some (w, h) => .ok { len := 0, out := [], dims := some (w, h) }

/-- HDR_DEC. -/
def execHdrDec (s : State) : Host.Outcome State Fault Refusal := runOperation hdrDecBody s

end Sys2Proof.Machine
end

