-- ==== Sys2Proof/Machine/Illegal.lean ====
section
/-! DEFINITION. The reserved CMD values: each starts the illegal operation, which ends at once with error
ILLEGAL_CMD (spec/60_exceptions.md R233, spec/30_encoding.md R101). -/

namespace Sys2Proof.Machine

/-- The illegal operation (R233): it reads no buffer and writes none. -/
def illegalBody (_ : State) : Except ErrKind Completion := .error .illegalCmd

/-- CMD value 0. -/
def execReserved0 (s : State) : Host.Outcome State Fault Refusal := runOperation illegalBody s

/-- CMD value 10. -/
def execReserved10 (s : State) : Host.Outcome State Fault Refusal := runOperation illegalBody s

/-- CMD value 11. -/
def execReserved11 (s : State) : Host.Outcome State Fault Refusal := runOperation illegalBody s

/-- CMD value 12. -/
def execReserved12 (s : State) : Host.Outcome State Fault Refusal := runOperation illegalBody s

/-- CMD value 13. -/
def execReserved13 (s : State) : Host.Outcome State Fault Refusal := runOperation illegalBody s

/-- CMD value 14. -/
def execReserved14 (s : State) : Host.Outcome State Fault Refusal := runOperation illegalBody s

/-- CMD value 15. -/
def execReserved15 (s : State) : Host.Outcome State Fault Refusal := runOperation illegalBody s

/-- Any CMD value with a 1 in bits 31:4. -/
def execReservedUpper (_ : BitVec 4) (_ : BitVec 28) (s : State) :
    Host.Outcome State Fault Refusal := runOperation illegalBody s

end Sys2Proof.Machine
end

