-- ==== Sys2Proof/Machine/Plane.lean ====
section
/-! DEFINITION. The PLN unit: the block grid, edge clamping, PLN_ENC and PLN_DEC (spec/42_plane.md R180 to
R192). A plane, a block stream or an image is given to these functions as the byte at each address. -/

namespace Sys2Proof.Machine

/-- `padded(P, w, h, X, Y)` of R182. -/
def padded (p : Nat → Byte) (w h x y : Nat) : Byte := p (addrPl w (min x (w - 1)) (min y (h - 1)))

/-- `gather(P, w, h, br, bc)` of R183. -/
def gather (p : Nat → Byte) (w h br bc : Nat) : List Byte :=
  (List.range 16).map fun k => padded p w h (4 * bc + k % 4) (4 * br + k / 4)

/-- The eight bytes of block position `k` of `pln_encode(P, w, h)` (R184, R185). -/
def plnEncodeBlock (tie : ModeTie) (p : Nat → Byte) (w h k : Nat) : List Byte :=
  blkEncode tie (gather p w h (k / cdiv4 w) (k % cdiv4 w))

/-- `pln_encode(P, w, h)` of R185. -/
def plnEncode (tie : ModeTie) (p : Nat → Byte) (w h : Nat) : List Byte :=
  (List.range (cdiv4 w * cdiv4 h)).flatMap (plnEncodeBlock tie p w h)

/-- Sample `(x, y)` of `pln_decode(E, w, h)` (R186). -/
def plnDecodeSample (e : Nat → Byte) (w x y : Nat) : Byte :=
  (blkDecode ((List.range 8).map fun i => e (addrPb (cdiv4 w) (y / 4) (x / 4) + i))).getD
    (4 * (y % 4) + x % 4) 0#8

/-- `pln_decode(E, w, h)` of R186. -/
def plnDecode (e : Nat → Byte) (w h : Nat) : List Byte :=
  (List.range (w * h)).map fun p => plnDecodeSample e w (p % w) (p / w)

/-- The pseudocode of R188. -/
def plnEncBody (s : State) : Except ErrKind Completion :=
  if s.inputTooLong then .error .capacity
  else if zeroArea s.width s.height then .error .dimension
  else if s.srcLen.toNat ≠ s.width.toNat * s.height.toNat then .error .dimension
  else if s.outputTooLong (8 * blockCount s.width s.height) then .error .capacity
  else .ok
    { len := 8 * blockCount s.width s.height
      out := plnEncode s.params.modeTie s.srcByte s.width.toNat s.height.toNat
      dims := none }

/-- PLN_ENC. -/
def execPlnEnc (s : State) : Host.Outcome State Fault Refusal := runOperation plnEncBody s

/-- The pseudocode of R190. -/
def plnDecBody (s : State) : Except ErrKind Completion :=
  if s.inputTooLong then .error .capacity
  else if zeroArea s.width s.height then .error .dimension
  else if s.srcLen.toNat ≠ 8 * blockCount s.width s.height then .error .dimension
  else if s.outputTooLong (s.width.toNat * s.height.toNat) then .error .capacity
  else .ok
    { len := s.width.toNat * s.height.toNat
      out := plnDecode s.srcByte s.width.toNat s.height.toNat
      dims := none }

/-- PLN_DEC. -/
def execPlnDec (s : State) : Host.Outcome State Fault Refusal := runOperation plnDecBody s

end Sys2Proof.Machine
end

