-- ==== Sys2Proof/Machine/Image.lean ====
section
/-! DEFINITION. The IMG unit: IMG_ENC and IMG_DEC (spec/43_image.md R200 to R208). -/

namespace Sys2Proof.Machine

/-- Component `c` of every pixel of an image, as a plane (R200: 0 red, 1 green). -/
def channelPlane (img : Nat → Byte) (c : Nat) : Nat → Byte := fun p => img (4 * p + c)

/-- The sixteen bytes of block position `k` of `img_encode(I, w, h)`: red, then green (R201). -/
def imgEncodePair (tie : ModeTie) (img : Nat → Byte) (w h k : Nat) : List Byte :=
  plnEncodeBlock tie (channelPlane img 0) w h k ++ plnEncodeBlock tie (channelPlane img 1) w h k

/-- `img_encode(I, w, h)` of R201. -/
def imgEncode (tie : ModeTie) (img : Nat → Byte) (w h : Dim) : List Byte :=
  hdrBytes w h ++ (List.range (blockCount w h)).flatMap (imgEncodePair tie img w.toNat h.toNat)

/-- The block stream of channel `ch` inside a stream (R204): byte `i` of `ER` (0) or `EG` (1). -/
def channelStream (t : Nat → Byte) (ch : Nat) : Nat → Byte :=
  fun i => t (12 + 16 * (i / 8) + 8 * ch + i % 8)

/-- Decoded sample `(x, y)` of channel `ch` of a stream (R204). -/
def imgDecodeSample (t : Nat → Byte) (w ch x y : Nat) : Byte :=
  plnDecodeSample (channelStream t ch) w x y

/-- Pixel `p` of `img_decode(T, mode)`: R, G, blue of the decoded R and G, and opaque alpha (R204, R205; PRESUMED by the spec
itself, assumption log 17). -/
def imgDecodePixel (half : RoundHalf) (mode : BitVec 2) (t : Nat → Byte) (w p : Nat) : List Byte :=
  pixelBytes (imgDecodeSample t w 0 (p % w) (p / w)) (imgDecodeSample t w 1 (p % w) (p / w))
    (blue half mode (imgDecodeSample t w 0 (p % w) (p / w)) (imgDecodeSample t w 1 (p % w) (p / w)))
    0xFF#8

/-- `img_decode(T, mode)` of R204, the dimensions being those of its header. -/
def imgDecode (half : RoundHalf) (mode : BitVec 2) (t : Nat → Byte) (w h : Nat) : List Byte :=
  (List.range (w * h)).flatMap (imgDecodePixel half mode t w)

/-- The pseudocode of R203. -/
def imgEncBody (s : State) : Except ErrKind Completion :=
  if s.inputTooLong then .error .capacity
  else if zeroArea s.width s.height then .error .dimension
  else if s.srcLen.toNat ≠ 4 * s.width.toNat * s.height.toNat then .error .dimension
  else if s.outputTooLong (12 + 16 * blockCount s.width s.height) then .error .capacity
  else .ok
    { len := 12 + 16 * blockCount s.width s.height
      out := imgEncode s.params.modeTie s.srcByte s.width s.height
      dims := none }

/-- IMG_ENC. -/
def execImgEnc (s : State) : Host.Outcome State Fault Refusal := runOperation imgEncBody s

/-- The pseudocode of R206, its checks in R206's order. -/
def imgDecBody (s : State) : Except ErrKind Completion :=
  if s.inputTooLong then .error .capacity
  else match s.srcHeader with
    | none => .error .format
    | some (w, h) =>
      if zeroArea w h then .error .dimension
      else if s.srcLen.toNat - 12 ≠ 16 * blockCount w h then .error .format
      else if s.outputTooLong (4 * w.toNat * h.toNat) then .error .capacity
      else .ok
        { len := 4 * w.toNat * h.toNat
          out := imgDecode s.params.roundHalf s.blueMode s.srcByte w.toNat h.toNat
          dims := some (w, h) }

/-- IMG_DEC. -/
def execImgDec (s : State) : Host.Outcome State Fault Refusal := runOperation imgDecBody s

end Sys2Proof.Machine
end

