-- ==== Sys2Proof/Machine/Registers.lean ====
section
/-! DEFINITION. The rows of format REGISTER: the HOST's accesses to the seven registers (spec/10_state.md R24
to R32, R37, R39). -/

namespace Sys2Proof.Machine

/-- CMD, register 0: a read returns 0; a write is the start step of the operation it selects (R25, R36). -/
def execRegCmd (x : RegAccess) (s : State) : Host.Outcome State Fault Refusal := accessReg 0 x s

/-- STATUS, register 1: read only (R26). -/
def execRegStatus (x : RegAccess) (s : State) : Host.Outcome State Fault Refusal := accessReg 1 x s

/-- WIDTH, register 2 (R28). -/
def execRegWidth (x : RegAccess) (s : State) : Host.Outcome State Fault Refusal := accessReg 2 x s

/-- HEIGHT, register 3 (R28). -/
def execRegHeight (x : RegAccess) (s : State) : Host.Outcome State Fault Refusal := accessReg 3 x s

/-- BLUEMODE, register 4 (R29). -/
def execRegBluemode (x : RegAccess) (s : State) : Host.Outcome State Fault Refusal := accessReg 4 x s

/-- SRC_LEN, register 5 (R31). -/
def execRegSrcLen (x : RegAccess) (s : State) : Host.Outcome State Fault Refusal := accessReg 5 x s

/-- DST_LEN, register 6: read only (R32). -/
def execRegDstLen (x : RegAccess) (s : State) : Host.Outcome State Fault Refusal := accessReg 6 x s

end Sys2Proof.Machine
end

