-- ==== Sys2Proof/Machine/Dispatch.lean ====
section
/-! DEFINITION. The dispatch: one arm per row of spec/opcode_table.json. -/

namespace Sys2Proof.Machine

def exec (i : Instr) (s : State) : Host.Outcome State Fault Refusal :=
  match i with
  | .hdrEnc => Sys2Proof.Machine.execHdrEnc s
  | .hdrDec => Sys2Proof.Machine.execHdrDec s
  | .blkEnc => Sys2Proof.Machine.execBlkEnc s
  | .blkDec => Sys2Proof.Machine.execBlkDec s
  | .plnEnc => Sys2Proof.Machine.execPlnEnc s
  | .plnDec => Sys2Proof.Machine.execPlnDec s
  | .imgEnc => Sys2Proof.Machine.execImgEnc s
  | .imgDec => Sys2Proof.Machine.execImgDec s
  | .blue => Sys2Proof.Machine.execBlue s
  | .reserved0 => Sys2Proof.Machine.execReserved0 s
  | .reserved10 => Sys2Proof.Machine.execReserved10 s
  | .reserved11 => Sys2Proof.Machine.execReserved11 s
  | .reserved12 => Sys2Proof.Machine.execReserved12 s
  | .reserved13 => Sys2Proof.Machine.execReserved13 s
  | .reserved14 => Sys2Proof.Machine.execReserved14 s
  | .reserved15 => Sys2Proof.Machine.execReserved15 s
  | .reservedUpper op zero => Sys2Proof.Machine.execReservedUpper op zero s
  | .header a w h => Sys2Proof.Machine.execHeader a w h s
  | .encodedBlock a b => Sys2Proof.Machine.execEncodedBlock a b s
  | .stream a w h body => Sys2Proof.Machine.execStream a w h body s
  | .pixel a r g b al => Sys2Proof.Machine.execPixel a r g b al s
  | .regCmd x => Sys2Proof.Machine.execRegCmd x s
  | .regStatus x => Sys2Proof.Machine.execRegStatus x s
  | .regWidth x => Sys2Proof.Machine.execRegWidth x s
  | .regHeight x => Sys2Proof.Machine.execRegHeight x s
  | .regBluemode x => Sys2Proof.Machine.execRegBluemode x s
  | .regSrcLen x => Sys2Proof.Machine.execRegSrcLen x s
  | .regDstLen x => Sys2Proof.Machine.execRegDstLen x s

end Sys2Proof.Machine
end

