-- ==== Sys2Proof/Machine/Sequencer.lean ====
section
/-! DEFINITION. The CORE's own moves while BUSY = 1: the sequencer of spec/10_state.md R30, which advances
CHECK to RUN to COMPLETE and in RUN visits every `(br, bc, ch)` once, channel fastest, then block column,
then block row. Each visit writes the output bytes that depend on its block (R72, R76 leave the order of
the writes free; DESIGN CHOICE, assumption log 11). -/

namespace Sys2Proof.Machine

/-- The rule of each operation: its checks and its result. -/
def opBody : Op → State → Except ErrKind Completion
  | .hdrEnc => hdrEncBody
  | .hdrDec => hdrDecBody
  | .blkEnc => blkEncBody
  | .blkDec => blkDecBody
  | .plnEnc => plnEncBody
  | .plnDec => plnDecBody
  | .imgEnc => imgEncBody
  | .imgDec => imgDecBody
  | .blue => blueBody
  | .illegal => illegalBody

/-- The dimensions an operation's grid has: the header's for IMG_DEC (R206), else WIDTH and HEIGHT. -/
def State.gridDims (s : State) (op : Op) : Dim × Dim :=
  match op with
  | .imgDec => s.srcHeader.getD (0#32, 0#32)
  | _ => (s.width, s.height)

/-- The block rows, block columns and channels an operation visits (R30, R180); the units that have no grid
make one visit. -/
def State.grid (s : State) (op : Op) : Nat × Nat × Nat :=
  let d := s.gridDims op
  match op with
  | .plnEnc | .plnDec => (cdiv4 d.2.toNat, cdiv4 d.1.toNat, 1)
  | .imgEnc | .imgDec => (cdiv4 d.2.toNat, cdiv4 d.1.toNat, 2)
  | .hdrEnc | .hdrDec | .blkEnc | .blkDec | .blue | .illegal => (1, 1, 1)

/-- Bytes at ascending addresses from `a`, as cells. -/
def cellsAt (a : Nat) (bs : List Byte) : List (Nat × Byte) :=
  (List.range bs.length).map fun i => (a + i, bs.getD i 0#8)

/-- The true pixels `(x, y)` of block `(br, bc)` in a `w` by `h` plane: the padded ones are dropped (R186). -/
def blockPixels (w h br bc : Nat) : List (Nat × Nat) :=
  ((List.range 16).map fun k => (4 * bc + k % 4, 4 * br + k / 4)).filter fun q =>
    decide (q.1 < w) && decide (q.2 < h)

/-- The header of an encoded stream, written with its first visit (R201). -/
def headerCells (w h : Dim) (br bc ch : Nat) : List (Nat × Byte) :=
  if br = 0 ∧ bc = 0 ∧ ch = 0 then cellsAt 0 (hdrBytes w h) else []

/-- What IMG_DEC writes for a pixel at a visit of channel `ch`: its red byte with the red block, the rest
with the green block (R204). -/
def imgDecCells (s : State) (w ch x y : Nat) : List (Nat × Byte) :=
  let r := imgDecodeSample s.srcByte w 0 x y
  let g := imgDecodeSample s.srcByte w 1 x y
  if ch = 0 then [(addrPx w x y 0, r)]
  else [(addrPx w x y 1, g), (addrPx w x y 2, blue s.params.roundHalf s.blueMode r g),
    (addrPx w x y 3, 0xFF#8)]

/-- The DST writes of the visit of `(br, bc, ch)`. -/
def State.visitCells (s : State) (op : Op) (br bc ch : Nat) : List (Nat × Byte) :=
  let d := s.gridDims op
  let w := d.1.toNat
  let h := d.2.toNat
  match op with
  | .plnEnc =>
    cellsAt (addrPb (cdiv4 w) br bc) (blkEncode s.params.modeTie (gather s.srcByte w h br bc))
  | .plnDec =>
    (blockPixels w h br bc).map fun q => (addrPl w q.1 q.2, plnDecodeSample s.srcByte w q.1 q.2)
  | .imgEnc =>
    headerCells d.1 d.2 br bc ch ++
      cellsAt (addrSb (cdiv4 w) br bc ch)
        (blkEncode s.params.modeTie (gather (channelPlane s.srcByte ch) w h br bc))
  | .imgDec => (blockPixels w h br bc).flatMap fun q => imgDecCells s w ch q.1 q.2
  | .hdrEnc | .hdrDec | .blkEnc | .blkDec | .blue | .illegal =>
    match opBody op s with
    | .ok c => cellsAt 0 c.out
    | .error _ => []

/-- The position after `q` in the grid, or COMPLETE after the last (R30). -/
def Seq.advance (q : Seq) (grid : Nat × Nat × Nat) : Seq :=
  if q.ch + 1 < grid.2.2 then { q with ch := q.ch + 1 }
  else if q.bc + 1 < grid.2.1 then { q with bc := q.bc + 1, ch := 0 }
  else if q.br + 1 < grid.1 then { q with br := q.br + 1, bc := 0, ch := 0 }
  else { q with phase := .complete }

/-- The move of the CORE at sequencer position `q`: the checks, all of them before the first DST write
(R237); one visit; or the completion step (R36). -/
def coreMoveAt (q : Seq) (s : State) : State :=
  match opBody q.op s with
  | .error e => raiseError e s
  | .ok c =>
    match q.phase with
    | .check => { s with seq := some { q with phase := .run } }
    | .run =>
      { s with
        dst := s.dst.writeCells (s.visitCells q.op q.br q.bc q.ch)
        seq := some (q.advance (s.grid q.op)) }
    | .complete => commitRegisters c s

/-- One move of the CORE; with no operation running it does nothing (R261). -/
def coreMove (s : State) : State :=
  match s.seq with
  | none => s
  | some q => coreMoveAt q s

end Sys2Proof.Machine
end

