-- ==== Sys2Proof/Machine/HostSide.lean ====
section
/-! DEFINITION. The HOST's side (spec/70_reset_and_hazards.md R264, R265; spec/30_encoding.md R108): each action
of the script the HOST follows, and the fetch of the next one. -/

namespace Sys2Proof.Machine

/-- A request that has no row in spec/opcode_table.json: a reserved register reads 0 and ignores writes (R24);
bytes of no listed layout are put in SRC as they are (R108). -/
def execUndecoded (r : Request) (s : State) : Host.Outcome State Fault Refusal :=
  match r with
  | .cmd _ => .next s
  | .regRead n => accessReg n .read s
  | .regWrite n v => accessReg n (.write v) s
  | .put _ a bs => putSrc a bs s

/-- A request: decoded and executed. -/
def execRequest (r : Request) (s : State) : Host.Outcome State Fault Refusal :=
  match decode r with
  | .ok i => exec i s
  | .error _ => execUndecoded r s

/-- An action of the HOST, the script already moved past it. `WAIT` while BUSY = 1 stays at the head of the
script and the CORE moves; then it is a read of STATUS (R108). -/
def hostMove (a : HostAction) (s : State) : Host.Outcome State Fault Refusal :=
  match a with
  | .request r => execRequest r s
  | .getDst a n => getDst a n s
  | .getSrc a n => getSrc a n s
  | .putDst a bs => putDst a bs s
  | .wait =>
    if s.busy then .next (coreMove { s with script := .wait :: s.script }) else accessReg 1 .read s
  | .idle => .next (coreMove s)
  | .reset => .next (assertReset s)

/-- One step of the whole: the HOST's next action, or, when the HOST has none, the CORE's move. -/
def machineStep (s : State) : Host.Outcome State Fault Refusal :=
  match s.script with
  | [] => .next (coreMove s)
  | a :: rest => hostMove a { s with script := rest }

/-- The state in which the HOST's next action is the request of an opcode-table word. -/
def withRequestWord (s : State) (nbits w : Nat) : State :=
  match requestOfTableWord nbits w with
  | some r => { s with script := .request r :: s.script }
  | none => s

end Sys2Proof.Machine
end

