-- ==== Sys2Proof/Machine/Step.lean ====
section
/-! DEFINITION. The step. The core fetches nothing (spec/10_state.md R30); what runs next is the HOST's next
action (`State.script`). -/

namespace Sys2Proof.Machine

/-- One step: the HOST's next action, or the CORE's move. -/
def step (s : State) : Host.Outcome State Fault Refusal := machineStep s

/-- The state with the request of an opcode-table word as the HOST's next action. -/
def State.withFetchWord (s : State) (nbits w : Nat) : State := withRequestWord s nbits w

end Sys2Proof.Machine
end

