-- ==== Sys2Proof/Safety.lean ====
section
/-! DEFINITION. What a claim about a run is stated in: the invariant of the machine's states, the kinds of
instruction, and what it means that an operation succeeds, ends in an error, or that a HOST access leaves the
rest of the machine alone. -/

namespace Sys2Proof

open Machine

/-- The operation a row of format CMD starts (R100, R101); no other row starts one by itself. -/
def Instr.operation : Instr → Option Op
  | .hdrEnc => some .hdrEnc
  | .hdrDec => some .hdrDec
  | .blkEnc => some .blkEnc
  | .blkDec => some .blkDec
  | .plnEnc => some .plnEnc
  | .plnDec => some .plnDec
  | .imgEnc => some .imgEnc
  | .imgDec => some .imgDec
  | .blue => some .blue
  | .reserved0 | .reserved10 | .reserved11 | .reserved12 | .reserved13 | .reserved14 | .reserved15
  | .reservedUpper _ _ => some .illegal
  | .header _ _ _ | .encodedBlock _ _ | .stream _ _ _ _ | .pixel _ _ _ _ _
  | .regCmd _ | .regStatus _ | .regWidth _ | .regHeight _ | .regBluemode _ | .regSrcLen _
  | .regDstLen _ => none

/-- The address and the bytes of a row of format DATA (R91, R94, R96, R97); no other row has any. -/
def Instr.datum : Instr → Option (Len × List Byte)
  | .header a w h => some (a, hdrBytes w h)
  | .encodedBlock a b => some (a, pack b)
  | .stream a w h body => some (a, streamBytes w h body)
  | .pixel a r g b al => some (a, pixelBytes r g b al)
  | .hdrEnc | .hdrDec | .blkEnc | .blkDec | .plnEnc | .plnDec | .imgEnc | .imgDec | .blue
  | .reserved0 | .reserved10 | .reserved11 | .reserved12 | .reserved13 | .reserved14 | .reserved15
  | .reservedUpper _ _
  | .regCmd _ | .regStatus _ | .regWidth _ | .regHeight _ | .regBluemode _ | .regSrcLen _
  | .regDstLen _ => none

/-- Whether an instruction is one of the two operations that write WIDTH and HEIGHT (R28, R36). -/
def Instr.writesDims (i : Instr) : Bool :=
  i.operation == some .hdrDec || i.operation == some .imgDec

/-- The register number and the access of a row of format REGISTER (R24); no other row has any. -/
def Instr.register : Instr → Option (Nat × RegAccess)
  | .regCmd x => some (0, x)
  | .regStatus x => some (1, x)
  | .regWidth x => some (2, x)
  | .regHeight x => some (3, x)
  | .regBluemode x => some (4, x)
  | .regSrcLen x => some (5, x)
  | .regDstLen x => some (6, x)
  | .hdrEnc | .hdrDec | .blkEnc | .blkDec | .plnEnc | .plnDec | .imgEnc | .imgDec | .blue
  | .reserved0 | .reserved10 | .reserved11 | .reserved12 | .reserved13 | .reserved14 | .reserved15
  | .reservedUpper _ _
  | .header _ _ _ | .encodedBlock _ _ | .stream _ _ _ _ | .pixel _ _ _ _ _ => none

end Sys2Proof

namespace Sys2Proof.Machine

/-! ### The invariant -/

/-- Every listed address lies below `cap` (R27). -/
def Memory.within (cap : Nat) (m : Memory) : Bool := m.all fun c => decide (c.1 < cap)

/-- The sequencer stands at the start before its checks, and inside its grid while it runs (R30). -/
def State.seqInGrid (s : State) (q : Seq) : Bool :=
  match q.phase with
  | .check => q.br == 0 && q.bc == 0 && q.ch == 0
  | .run =>
    decide (q.br < (s.grid q.op).1) && decide (q.bc < (s.grid q.op).2.1)
      && decide (q.ch < (s.grid q.op).2.2)
  | .complete => true

/-- Where R266's window can be open: an operation runs, or has ended; an operation that has ended in error has put nothing
in WIDTH and HEIGHT. -/
def State.windowLegal (s : State) (w : Window) : Bool :=
  (s.busy || statusDoneBit s.status) && (!statusErrBit s.status || w == Window.plain)

/-- The invariant: STATUS is one of its seven values (R26); BUSY = 1 exactly while an operation runs (R36);
ERR = 1 leaves DST_LEN = 0 (R32); while BUSY = 1 the ownership window is open, with nothing put in WIDTH and HEIGHT,
and it is open only while BUSY = 1 or DONE = 1 (R266), and covers WIDTH or HEIGHT only without ERR (R36); SRC and DST are canonical and hold no byte outside their capacities (R27,
R73); DST_LEN is at most DST_CAP (R234); the sequencer is where R30 lets it be. -/
def State.inv (s : State) : Bool :=
  decide (s.status ∈ legalStatuses)
    && (s.busy == s.seq.isSome)
    && (!statusErrBit s.status || s.dstLen == 0#66)
    && (!s.busy || s.window == some Window.plain)
    && s.window.all s.windowLegal
    && s.src.wf && s.dst.wf
    && Memory.within s.params.srcCap.toNat s.src
    && Memory.within s.params.dstCap.toNat s.dst
    && decide (s.dstLen.toNat ≤ s.params.dstCap.toNat)
    && s.seq.all s.seqInGrid

/-! ### What an instruction did -/

/-- What a HOST write to SRC leaves alone (R266): outside a window everything but SRC; in one, everything but SRC, the
output's bytes in DST, and WIDTH and HEIGHT where the operation put them there. -/
def srcWriteKeeps (s t : State) : Prop :=
  (s.window = none → t = { s with src := t.src }) ∧
  t = { s with src := t.src, dst := t.dst, width := t.width, height := t.height, freeCtr := t.freeCtr } ∧
  (∀ w, s.window = some w →
    (w.widthOut = false → t.width = s.width) ∧ (w.heightOut = false → t.height = s.height)) ∧
  (∀ a, s.dstLen.toNat ≤ a → t.dst.read a = s.dst.read a)

/-- Nothing but STATUS, WIDTH, HEIGHT, DST_LEN, DST, the sequencer and the ownership window differs: what the CORE never changes
(R265), and the model's own fields. -/
def keepsInputs (s t : State) : Prop :=
  t.blueMode = s.blueMode ∧ t.srcLen = s.srcLen ∧ t.src = s.src ∧ t.params = s.params ∧
    t.script = s.script ∧ t.hostIn = s.hostIn ∧ t.epoch = s.epoch ∧ t.freeCtr = s.freeCtr

/-- `exec i s` answers a next state in which the operation has succeeded (R36): DONE_OK, DST_LEN = `n`,
`DST[0 .. n-1]` is `out` and no other DST byte differs (R32), WIDTH and HEIGHT are `w` and `h`, nothing else
differs, no operation runs, and the ownership window is open (R266), over WIDTH and HEIGHT too where the operation is one
that writes them, in place of one open before (DESIGN CHOICE, assumption log 25). -/
def succeeds (i : Instr) (s : State) (n : Nat) (out : Nat → Byte) (w h : Dim) : Prop :=
  ∃ t, exec i s = .next t ∧ t.status = 0x02#32 ∧ t.dstLen.toNat = n ∧
    (∀ a, a < n → t.dst.read a = some (out a)) ∧ (∀ a, n ≤ a → t.dst.read a = s.dst.read a) ∧
    t.width = w ∧ t.height = h ∧ t.seq = none ∧
    t.window = some { widthOut := i.writesDims, heightOut := i.writesDims } ∧ keepsInputs s t

/-- `exec i s` answers the next state of the error completion step (R36, R236): STATUS is `status`, DST_LEN is 0,
no operation runs, the ownership window is open (R266) in place of one open before (DESIGN CHOICE, assumption log 25), and nothing else
differs. -/
def endsInError (i : Instr) (s : State) (status : BitVec 32) : Prop :=
  exec i s = .next { s with
    status := status, dstLen := 0#66, seq := none, window := some { widthOut := false, heightOut := false } }

end Sys2Proof.Machine

namespace Sys2Proof.Machine

/-! ### What the rules' conditions say of SRC -/

/-- `SRC[0..3] = MAGIC` (R125, R206). -/
def State.magicInSrc (s : State) : Prop :=
  s.srcByte 0 = 0x42#8 ∧ s.srcByte 1 = 0x43#8 ∧ s.srcByte 2 = 0x35#8 ∧ s.srcByte 3 = 0x20#8

/-- The 32-bit big-endian number at SRC address `a` (R93). -/
def State.dimInSrc (s : State) (a : Nat) : Dim :=
  BitVec.ofNat 32 ((s.srcByte a).toNat * 2 ^ 24 + (s.srcByte (a + 1)).toNat * 2 ^ 16 +
    (s.srcByte (a + 2)).toNat * 2 ^ 8 + (s.srcByte (a + 3)).toNat)

/-- The encoder's byte `j` of the block `(br, bc)` of a plane (R183, R185). -/
def codedByte (tie : ModeTie) (p : Nat → Byte) (w h br bc j : Nat) : Byte :=
  (blkEncode tie (gather p w h br bc)).getD j 0#8

/-- The decoder's sample `j` of the block whose eight bytes start at `a` (R154, R186). -/
def decodedSample (e : Nat → Byte) (a j : Nat) : Byte :=
  (blkDecode [e a, e (a + 1), e (a + 2), e (a + 3), e (a + 4), e (a + 5), e (a + 6), e (a + 7)]).getD j 0#8

end Sys2Proof.Machine
end

