-- ==== Sys2Proof/Certificates/Slice0/Obligations.lean ====
section
/-! DEFINITION. The statements about BC5CORE for the provers, from the numbered rules of spec/. A premise
`s.dst.wf = true` or `s.src.wf = true` is the part of the machine's invariant that keeps a buffer canonical
(`Obligations.StepKeepsInvariant`); `s.busy = false` is STATUS.BUSY = 0. -/

open Sys2Proof Sys2Proof.Machine

/-! ## Reset and the idle core -/

/-- R35, R260: the reset input, idle or busy, leaves every register 0, SRC and DST without a value, no operation, the
buffers the HOST's (R266; no rule says so of the window in words: DEDUCED, assumption log 24);
and so does `State.reset`. What the HOST does next is untouched. -/
def Obligations.ResetInputLeavesResetState : Prop :=
  (∀ (s : State) (rest : List HostAction), s.script = .reset :: rest →
    ∃ t, step s = .next t ∧ t.status = 0x00#32 ∧ t.width = 0#32 ∧ t.height = 0#32 ∧
      t.blueMode = 0#2 ∧ t.srcLen = 0#66 ∧ t.dstLen = 0#66 ∧ (∀ n, t.readReg n = 0) ∧
      (∀ a, t.src.read a = none ∧ t.dst.read a = none) ∧ t.seq = none ∧ t.window = none ∧ t.script = rest ∧
      t.params = s.params) ∧
  (∀ n, State.reset.readReg n = 0) ∧ State.reset.status = 0x00#32 ∧ State.reset.seq = none ∧ State.reset.window = none ∧
  (∀ a, State.reset.src.read a = none ∧ State.reset.dst.read a = none)

/-- R35, last sentence: what every operation does straight after reset. Each leaves the ownership window open (R266),
which was closed (DEDUCED, assumption log 24). -/
def Obligations.OperationsStraightAfterReset : Prop :=
  ∀ s : State,
    endsInError .hdrDec (assertReset s) 0x16#32 ∧ endsInError .blkDec (assertReset s) 0x16#32 ∧
    endsInError .imgDec (assertReset s) 0x16#32 ∧ endsInError .blkEnc (assertReset s) 0x26#32 ∧
    endsInError .plnEnc (assertReset s) 0x26#32 ∧ endsInError .plnDec (assertReset s) 0x26#32 ∧
    endsInError .imgEnc (assertReset s) 0x26#32 ∧ endsInError .blue (assertReset s) 0x26#32 ∧
    (12 ≤ s.params.dstCap.toNat →
      succeeds .hdrEnc (assertReset s) 12
        (fun a => [0x42#8, 0x43#8, 0x35#8, 0x20#8].getD a 0#8) 0#32 0#32)

/-- R261: with no operation running and nothing for the HOST to do, a step changes nothing; and the HOST's doing
nothing leaves an idle core alone. -/
def Obligations.IdleCoreDoesNothing : Prop :=
  ∀ s : State, s.seq = none →
    (s.script = [] → step s = .next s) ∧
    (∀ rest, s.script = .idle :: rest → step s = .next { s with script := rest })

/-! ## Decoding -/

/-- R100, R101, R25: the operation each CMD value selects, for a value run whole and for one written to CMD; every
value but 1 to 9 selects the illegal operation. -/
def Obligations.CmdValueSelectsOperation : Prop :=
  decodeCmd 1#32 = .hdrEnc ∧ decodeCmd 2#32 = .hdrDec ∧ decodeCmd 3#32 = .blkEnc ∧
  decodeCmd 4#32 = .blkDec ∧ decodeCmd 5#32 = .plnEnc ∧ decodeCmd 6#32 = .plnDec ∧
  decodeCmd 7#32 = .imgEnc ∧ decodeCmd 8#32 = .imgDec ∧ decodeCmd 9#32 = .blue ∧
  (∀ c : BitVec 32, c.toNat = 0 ∨ 10 ≤ c.toNat → (decodeCmd c).operation = some .illegal) ∧
  (∀ c : BitVec 32, (decodeCmd c).operation = some (opOfCmd c))

/-- Words written out by hand from R91, R94 (vectors V-K4, V-K8, V-H3), R97, R101 and R24. -/
def Obligations.HandWrittenWordsDecode : Prop :=
  decode (.cmd 0x00000017#32) = .ok (.reservedUpper 7#4 1#28) ∧
  decode (.cmd 0x0000000C#32) = .ok .reserved12 ∧
  decode (.put .encodedBlock 0 [0x09#8, 0x08#8, 0xD1#8, 0x58#8, 0x1F#8, 0x77#8, 0x39#8, 0x05#8]) =
    .ok (.encodedBlock 0 ⟨9#8, 8#8,
      [1#3, 2#3, 3#3, 4#3, 5#3, 6#3, 7#3, 0#3, 7#3, 6#3, 5#3, 4#3, 3#3, 2#3, 1#3, 0#3]⟩) ∧
  decode (.put .header 5 [0x42#8, 0x43#8, 0x35#8, 0x20#8, 0x01#8, 0x02#8, 0x03#8, 0x04#8,
    0x0A#8, 0x0B#8, 0x0C#8, 0x0D#8]) = .ok (.header 5 0x01020304#32 0x0A0B0C0D#32) ∧
  decode (.put .pixel 8 [1#8, 2#8, 3#8, 4#8]) = .ok (.pixel 8 1#8 2#8 3#8 4#8) ∧
  decode (.regWrite 4 3) = .ok (.regBluemode (.write 3)) ∧
  decode (.regRead 7) = .error .reservedRegister

/-- Decoding the encoding of a well-formed instruction gives it back, every operand at every value. -/
def Obligations.DecodeOfEncode : Prop :=
  ∀ i : Instr, i.wellFormed = true → decode (encode i) = .ok i

/-- What decodes is well-formed, and its encoding is the request it was read from: no bit is dropped or shared. -/
def Obligations.EncodeOfDecode : Prop :=
  ∀ (r : Request) (i : Instr), decode r = .ok i → i.wellFormed = true ∧ encode i = r

/-- A step runs the decoded instruction: when the HOST's next action is a request that decodes to `i`, the step is
`exec i` in the state whose script has moved past it (that the HOST's actions are a list the step reads: DESIGN CHOICE,
assumption log 1); and `withFetchWord` makes a table word that next action, which no rule of the spec says: it is the
model's choice (DESIGN CHOICE, assumption log 9; how a table word is read: DESIGN CHOICE, assumption log 7). -/
def Obligations.StepRunsDecodedInstruction : Prop :=
  (∀ (s : State) (r : Request) (rest : List HostAction) (i : Instr),
    s.script = .request r :: rest → decode r = .ok i → step s = exec i { s with script := rest }) ∧
  (∀ (s : State) (nbits w : Nat) (i : Instr), decodeTableWord nbits w = some i →
    step (s.withFetchWord nbits w) = exec i s)

/-- R24, last sentence: register numbers 7 and above read 0 and ignore writes. -/
def Obligations.ReservedRegisterNumbers : Prop :=
  ∀ (s : State) (n v : Nat) (rest : List HostAction), 7 ≤ n →
    (s.script = .request (.regRead n) :: rest →
      step s = .next { s with script := rest, hostIn := .value 0 }) ∧
    (s.script = .request (.regWrite n v) :: rest → step s = .next { s with script := rest })

/-! ## Data formats -/

/-- R126: the header's round trip, for all dimensions (0 among them) and every remainder. -/
def Obligations.HeaderRoundTrip : Prop :=
  ∀ (w h : Dim) (x : List Byte), hdrParse (hdrBytes w h ++ x) = some (w, h, x)

/-- R94: bit `j` of index `k` is bit `p mod 8` of byte `2 + (p div 8)` with `p = 3k + j`; bytes 0 and 1 are the
endpoints; and unpacking reads the same positions. -/
def Obligations.IndexBitPositions : Prop :=
  (∀ b : EncodedBlock, b.wellFormed = true →
    (pack b).getD 0 0#8 = b.e0 ∧ (pack b).getD 1 0#8 = b.e1 ∧
    ∀ k j, k < 16 → j < 3 →
      ((pack b).getD (2 + (3 * k + j) / 8) 0#8).getLsbD ((3 * k + j) % 8) =
        (b.idx.getD k 0#3).getLsbD j) ∧
  (∀ bs : List Byte, bs.length = 8 →
    (unpack bs).e0 = bs.getD 0 0#8 ∧ (unpack bs).e1 = bs.getD 1 0#8 ∧
    ∀ k j, k < 16 → j < 3 →
      ((unpack bs).idx.getD k 0#3).getLsbD j =
        (bs.getD (2 + (3 * k + j) / 8) 0#8).getLsbD ((3 * k + j) % 8))

/-- R151: `pack` and `unpack` are inverse bijections. -/
def Obligations.PackUnpackInverse : Prop :=
  (∀ b : EncodedBlock, b.wellFormed = true → (pack b).length = 8 ∧ unpack (pack b) = b) ∧
  (∀ bs : List Byte, bs.length = 8 → (unpack bs).wellFormed = true ∧ pack (unpack bs) = bs)

/-! ## Blocks -/

/-- R143: the 8-step palette is the stated formula, without wrap, and that is the nearest integer to the exact value;
it starts at `e0`, ends at `e1` and does not rise when `e0 > e1`. -/
def Obligations.EightStepPalette : Prop :=
  ∀ (e0 e1 : Byte) (i : Nat), i < 8 →
    ((pal8 e0 e1).getD i 0#8).toNat = (2 * ((7 - i) * e0.toNat + i * e1.toNat) + 7) / 14 ∧
    2 * (7 * ((pal8 e0 e1).getD i 0#8).toNat) < 2 * ((7 - i) * e0.toNat + i * e1.toNat) + 7 ∧
    2 * ((7 - i) * e0.toNat + i * e1.toNat) < 2 * (7 * ((pal8 e0 e1).getD i 0#8).toNat) + 7 ∧
    (pal8 e0 e1).getD 0 0#8 = e0 ∧ (pal8 e0 e1).getD 7 0#8 = e1 ∧
    (e1 < e0 → i < 7 → (pal8 e0 e1).getD (i + 1) 0#8 ≤ (pal8 e0 e1).getD i 0#8)

/-- R144: the 6-step palette likewise, with the anchors 0 and 255 at 6 and 7. -/
def Obligations.SixStepPalette : Prop :=
  ∀ (e0 e1 : Byte) (i : Nat), i < 6 →
    ((pal6 e0 e1).getD i 0#8).toNat = (2 * ((5 - i) * e0.toNat + i * e1.toNat) + 5) / 10 ∧
    2 * (5 * ((pal6 e0 e1).getD i 0#8).toNat) < 2 * ((5 - i) * e0.toNat + i * e1.toNat) + 5 ∧
    2 * ((5 - i) * e0.toNat + i * e1.toNat) < 2 * (5 * ((pal6 e0 e1).getD i 0#8).toNat) + 5 ∧
    (pal6 e0 e1).getD 0 0#8 = e0 ∧ (pal6 e0 e1).getD 5 0#8 = e1 ∧
    (pal6 e0 e1).getD 6 0#8 = 0#8 ∧ (pal6 e0 e1).getD 7 0#8 = 255#8 ∧
    (e0 ≤ e1 → i < 5 → (pal6 e0 e1).getD i 0#8 ≤ (pal6 e0 e1).getD (i + 1) 0#8) ∧
    (e0 = e1 → (pal6 e0 e1).getD i 0#8 = e0)

/-- R95, R145: the mode is the unsigned comparison of the endpoints, equality being 6-step; and in both modes entry 0
is the first endpoint. -/
def Obligations.PaletteModeByEndpointOrder : Prop :=
  ∀ e0 e1 : Byte,
    (e1.toNat < e0.toNat → palette e0 e1 = pal8 e0 e1) ∧
    (e0.toNat ≤ e1.toNat → palette e0 e1 = pal6 e0 e1) ∧
    (palette e0 e1).getD 0 0#8 = e0

/-- R147: `nearest` is the least index at no greater distance than any entry. -/
def Obligations.NearestIsLeastBest : Prop :=
  ∀ (pal : List Byte) (s : Byte), pal.length = 8 →
    (∀ j, j < 8 → ((s.toNat : Int) - (pal.getD (nearest pal s).toNat 0#8).toNat).natAbs ≤
      ((s.toNat : Int) - (pal.getD j 0#8).toNat).natAbs) ∧
    (∀ i, i < (nearest pal s).toNat → ∃ j, j < 8 ∧
      ((s.toNat : Int) - (pal.getD j 0#8).toNat).natAbs <
        ((s.toNat : Int) - (pal.getD i 0#8).toNat).natAbs)

/-- R152, R154: decoding looks each index up in the palette of the endpoints; the 48 index bits are little-endian. -/
def Obligations.BlockDecodeLooksUpPalette : Prop :=
  ∀ b0 b1 b2 b3 b4 b5 b6 b7 : Byte,
    (blkDecode [b0, b1, b2, b3, b4, b5, b6, b7]).length = 16 ∧
    ∀ k, k < 16 →
      (blkDecode [b0, b1, b2, b3, b4, b5, b6, b7]).getD k 0#8 =
        (palette b0 b1).getD
          ((b2.toNat + b3.toNat * 2 ^ 8 + b4.toNat * 2 ^ 16 + b5.toNat * 2 ^ 24 +
            b6.toNat * 2 ^ 32 + b7.toNat * 2 ^ 40) / 2 ^ (3 * k) % 8) 0#8

/-- R141, R142, R148, R149, R150, R153: a uniform block stores its value twice and indices 0; any other block takes the
candidate of lower squared error, the sum of `(S[k] - pal[nearest])^2` written out here, on equality the one MODE_TIE
names (that one MODE_TIE holds for the whole machine is the model's choice: DESIGN CHOICE, assumption log 16). -/
def Obligations.EncoderTakesLowerError : Prop :=
  ∀ (tie : ModeTie) (ss : List Byte) (lo hi : Byte) (sse8 sse6 : Int), ss.length = 16 → lo ∈ ss → hi ∈ ss →
    (∀ s ∈ ss, lo ≤ s ∧ s ≤ hi) →
    sse8 = ((List.range 16).map fun k =>
      (((ss.getD k 0#8).toNat : Int) -
        ((pal8 hi lo).getD (nearest (pal8 hi lo) (ss.getD k 0#8)).toNat 0#8).toNat) ^ 2).sum →
    sse6 = ((List.range 16).map fun k =>
      (((ss.getD k 0#8).toNat : Int) -
        ((pal6 lo hi).getD (nearest (pal6 lo hi) (ss.getD k 0#8)).toNat 0#8).toNat) ^ 2).sum →
    (lo = hi → blkEncode tie ss = [lo, lo, 0#8, 0#8, 0#8, 0#8, 0#8, 0#8]) ∧
    (lo ≠ hi →
      (sse8 < sse6 ∨ (sse8 = sse6 ∧ tie = .eight) →
        blkEncode tie ss = pack ⟨hi, lo, ss.map (nearest (pal8 hi lo))⟩) ∧
      (sse6 < sse8 ∨ (sse8 = sse6 ∧ tie = .six) →
        blkEncode tie ss = pack ⟨lo, hi, ss.map (nearest (pal6 lo hi))⟩))

/-- R148: the squared error of a candidate is the sum, over the sixteen samples, of the squared difference from the
entry of its palette at its index; its indices are the nearest ones; and the sum is at most 1040400. -/
def Obligations.CandidateSquaredError : Prop :=
  ∀ (e0 e1 : Byte) (ss : List Byte), ss.length = 16 →
    ((candidate e0 e1 ss).sse : Int) = ((List.range 16).map fun k =>
      (((ss.getD k 0#8).toNat : Int) -
        ((palette e0 e1).getD ((candidate e0 e1 ss).block.idx.getD k 0#3).toNat 0#8).toNat) ^ 2).sum ∧
    (∀ k, k < 16 →
      (candidate e0 e1 ss).block.idx.getD k 0#3 = nearest (palette e0 e1) (ss.getD k 0#8)) ∧
    (candidate e0 e1 ss).sse ≤ 1040400

/-- R157: a uniform block round-trips exactly, for every byte. -/
def Obligations.DegenerateBlockExact : Prop :=
  ∀ (tie : ModeTie) (v : Byte), blkDecode (blkEncode tie (List.replicate 16 v)) = List.replicate 16 v

/-- R158: the encoder never produces index 6 or 7 in a 6-step block, nor equal endpoints with a non-zero index. -/
def Obligations.EncoderNeverUsesAnchors : Prop :=
  ∀ (tie : ModeTie) (ss : List Byte), ss.length = 16 →
    ((encodeSamples tie ss).e0 ≤ (encodeSamples tie ss).e1 →
      ∀ i ∈ (encodeSamples tie ss).idx, i.toNat < 6) ∧
    ((encodeSamples tie ss).e0 = (encodeSamples tie ss).e1 →
      ∀ i ∈ (encodeSamples tie ss).idx, i = 0#3)

/-- R159: the decoded sample differs from the original by at most a seventh of `hi - lo` in 8-step mode and a fifth in
6-step mode, and the extremes are reproduced. -/
def Obligations.QuantisationErrorBound : Prop :=
  ∀ (tie : ModeTie) (ss : List Byte) (k : Nat), ss.length = 16 → k < 16 →
    ((encodeSamples tie ss).e1 < (encodeSamples tie ss).e0 →
      7 * absDiff ((blkDecode (blkEncode tie ss)).getD k 0#8) (ss.getD k 0#8) ≤
        (blockMax ss).toNat - (blockMin ss).toNat) ∧
    ((encodeSamples tie ss).e0 ≤ (encodeSamples tie ss).e1 →
      5 * absDiff ((blkDecode (blkEncode tie ss)).getD k 0#8) (ss.getD k 0#8) ≤
        (blockMax ss).toNat - (blockMin ss).toNat) ∧
    blockMin (blkDecode (blkEncode tie ss)) = blockMin ss ∧
    blockMax (blkDecode (blkEncode tie ss)) = blockMax ss

/-! ## Planes -/

/-- R182, R183: a gathered sample is the plane's nearest sample, and the address read lies in the plane. -/
def Obligations.GatherClampsToEdges : Prop :=
  ∀ (p : Nat → Byte) (w h br bc i j : Nat), 0 < w → 0 < h → i < 4 → j < 4 →
    (gather p w h br bc).length = 16 ∧
    (gather p w h br bc).getD (4 * j + i) 0#8 =
      p (min (4 * br + j) (h - 1) * w + min (4 * bc + i) (w - 1)) ∧
    min (4 * br + j) (h - 1) * w + min (4 * bc + i) (w - 1) < w * h

/-- R191: every sample of a plane that is encoded and decoded again is within a fifth of its block's range. -/
def Obligations.PlaneRoundTripBound : Prop :=
  ∀ (tie : ModeTie) (p : Nat → Byte) (w h x y : Nat), x < w → y < h →
    5 * absDiff ((plnDecode (fun i => (plnEncode tie p w h).getD i 0#8) w h).getD (y * w + x) 0#8)
        (p (y * w + x)) ≤
      (blockMax (gather p w h (y / 4) (x / 4))).toNat - (blockMin (gather p w h (y / 4) (x / 4))).toNat ∧
    (plnDecode (fun i => (plnEncode tie p w h).getD i 0#8) w h).length = w * h

/-! ## Blue -/

/-- R12: `isqrt(n)` is the largest integer whose square is at most `n`. -/
def Obligations.IntegerSquareRoot : Prop :=
  ∀ n : Nat, isqrt n * isqrt n ≤ n ∧ n < (isqrt n + 1) * (isqrt n + 1)

/-- R224: ComputeNormal in integers; `N` is 7 modulo 8, so never 0 and never a square; the result never leaves 127..255, nor 128..255 when ROUND_HALF is
UP. -/
def Obligations.ComputeNormalValue : Prop :=
  ∀ (half : RoundHalf) (r g : Byte) (a b n : Int),
    a = 2 * (r.toNat : Int) - 255 → b = 2 * (g.toNat : Int) - 255 → n = 65025 - a * a - b * b →
    n ≠ 0 ∧ n % 8 = 7 ∧ (∀ t : Int, t * t ≠ n) ∧
    (0 < n → ∀ t : Nat, (t : Int) * t ≤ n → n < (t + 1) * (t + 1) →
      (blue half 3#2 r g).toNat = (256 + t) / 2) ∧
    (n < 0 → blue half 3#2 r g = match half with
      | .up => 128#8
      | .down => 127#8) ∧
    127 ≤ (blue half 3#2 r g).toNat ∧ (half = .up → 128 ≤ (blue half 3#2 r g).toNat)

/-- R226: ComputeNormal is symmetric in its arguments and under reflection of either. -/
def Obligations.ComputeNormalSymmetry : Prop :=
  ∀ (half : RoundHalf) (r g : Byte),
    blue half 3#2 r g = blue half 3#2 g r ∧ blue half 3#2 r g = blue half 3#2 (255#8 - r) g

/-! ## The nine operations and the reserved commands: where each succeeds and where each ends in an error -/

/-- R122 (with R91, R121): HDR_ENC. The ownership window it leaves
open (R266), in place of one open before, is the model's choice (DESIGN CHOICE, assumption log 25). -/
def Obligations.HdrEncRule : Prop :=
  decode (.cmd 0x00000001#32) = .ok .hdrEnc ∧
  ∀ s : State, s.busy = false → s.dst.wf = true →
    (s.params.dstCap.toNat < 12 → endsInError .hdrEnc s 0x46#32) ∧
    (12 ≤ s.params.dstCap.toNat →
      succeeds .hdrEnc s 12
        (fun a => [0x42#8, 0x43#8, 0x35#8, 0x20#8,
          s.width.extractLsb' 24 8, s.width.extractLsb' 16 8, s.width.extractLsb' 8 8,
          s.width.extractLsb' 0 8, s.height.extractLsb' 24 8, s.height.extractLsb' 16 8,
          s.height.extractLsb' 8 8, s.height.extractLsb' 0 8].getD a 0#8) s.width s.height)

/-- R125 (with R93, R123): HDR_DEC; it writes no DST byte. The ownership window it leaves
open (R266), with its marks over WIDTH and HEIGHT, in place of one open before, is the model's choice (DESIGN CHOICE,
assumption log 25). -/
def Obligations.HdrDecRule : Prop :=
  decode (.cmd 0x00000002#32) = .ok .hdrDec ∧
  ∀ s : State, s.busy = false → s.dst.wf = true →
    (s.params.srcCap.toNat < s.srcLen.toNat → endsInError .hdrDec s 0x46#32) ∧
    (s.srcLen.toNat ≤ s.params.srcCap.toNat →
      (s.srcLen.toNat < 12 → endsInError .hdrDec s 0x16#32) ∧
      (12 ≤ s.srcLen.toNat →
        (¬ s.magicInSrc → endsInError .hdrDec s 0x16#32) ∧
        (s.magicInSrc →
          succeeds .hdrDec s 0 (fun _ => 0#8) (s.dimInSrc 4) (s.dimInSrc 8))))

/-- R155: BLK_ENC. That one MODE_TIE holds for the machine is DESIGN CHOICE, assumption log 16. The ownership window it leaves
open (R266), in place of one open before, is the model's choice (DESIGN CHOICE, assumption log 25). -/
def Obligations.BlkEncRule : Prop :=
  decode (.cmd 0x00000003#32) = .ok .blkEnc ∧
  ∀ s : State, s.busy = false → s.dst.wf = true →
    (s.params.srcCap.toNat < s.srcLen.toNat → endsInError .blkEnc s 0x46#32) ∧
    (s.srcLen.toNat ≤ s.params.srcCap.toNat →
      (s.srcLen.toNat ≠ 16 → endsInError .blkEnc s 0x26#32) ∧
      (s.srcLen.toNat = 16 →
        (s.params.dstCap.toNat < 8 → endsInError .blkEnc s 0x46#32) ∧
        (8 ≤ s.params.dstCap.toNat →
          succeeds .blkEnc s 8
            (fun a => (blkEncode s.params.modeTie (s.srcBytes 0 16)).getD a 0#8)
            s.width s.height)))

/-- R156: BLK_DEC. The ownership window it leaves
open (R266), in place of one open before, is the model's choice (DESIGN CHOICE, assumption log 25). -/
def Obligations.BlkDecRule : Prop :=
  decode (.cmd 0x00000004#32) = .ok .blkDec ∧
  ∀ s : State, s.busy = false → s.dst.wf = true →
    (s.params.srcCap.toNat < s.srcLen.toNat → endsInError .blkDec s 0x46#32) ∧
    (s.srcLen.toNat ≤ s.params.srcCap.toNat →
      (s.srcLen.toNat ≠ 8 → endsInError .blkDec s 0x16#32) ∧
      (s.srcLen.toNat = 8 →
        (s.params.dstCap.toNat < 16 → endsInError .blkDec s 0x46#32) ∧
        (16 ≤ s.params.dstCap.toNat →
          succeeds .blkDec s 16 (decodedSample s.srcByte 0) s.width s.height)))

/-- R188 (with R65, R185): PLN_ENC. Byte `a` of the output is byte `a mod 8` of block position `a div 8`.
That one MODE_TIE holds for the machine is DESIGN CHOICE, assumption log 16. The ownership window it leaves
open (R266), in place of one open before, is the model's choice (DESIGN CHOICE, assumption log 25). -/
def Obligations.PlnEncRule : Prop :=
  decode (.cmd 0x00000005#32) = .ok .plnEnc ∧
  ∀ (s : State) (w h cols n : Nat), s.busy = false → s.dst.wf = true →
    w = s.width.toNat → h = s.height.toNat → cols = (w + 3) / 4 → n = cols * ((h + 3) / 4) →
    (s.params.srcCap.toNat < s.srcLen.toNat → endsInError .plnEnc s 0x46#32) ∧
    (s.srcLen.toNat ≤ s.params.srcCap.toNat →
      (w = 0 ∨ h = 0 → endsInError .plnEnc s 0x26#32) ∧
      (0 < w → 0 < h →
        (s.srcLen.toNat ≠ w * h → endsInError .plnEnc s 0x26#32) ∧
        (s.srcLen.toNat = w * h →
          (s.params.dstCap.toNat < 8 * n → endsInError .plnEnc s 0x46#32) ∧
          (8 * n ≤ s.params.dstCap.toNat →
            succeeds .plnEnc s (8 * n)
              (fun a => codedByte s.params.modeTie s.srcByte w h (a / 8 / cols) (a / 8 % cols) (a % 8))
              s.width s.height))))

/-- R190 (with R62, R186): PLN_DEC. Output byte `y*w + x` is sample `(x mod 4, y mod 4)` of the block that holds it.
The ownership window it leaves
open (R266), in place of one open before, is the model's choice (DESIGN CHOICE, assumption log 25). -/
def Obligations.PlnDecRule : Prop :=
  decode (.cmd 0x00000006#32) = .ok .plnDec ∧
  ∀ (s : State) (w h cols n : Nat), s.busy = false → s.dst.wf = true →
    w = s.width.toNat → h = s.height.toNat → cols = (w + 3) / 4 → n = cols * ((h + 3) / 4) →
    (s.params.srcCap.toNat < s.srcLen.toNat → endsInError .plnDec s 0x46#32) ∧
    (s.srcLen.toNat ≤ s.params.srcCap.toNat →
      (w = 0 ∨ h = 0 → endsInError .plnDec s 0x26#32) ∧
      (0 < w → 0 < h →
        (s.srcLen.toNat ≠ 8 * n → endsInError .plnDec s 0x26#32) ∧
        (s.srcLen.toNat = 8 * n →
          (s.params.dstCap.toNat < w * h → endsInError .plnDec s 0x46#32) ∧
          (w * h ≤ s.params.dstCap.toNat →
            succeeds .plnDec s (w * h)
              (fun a => decodedSample s.srcByte (8 * (a / w / 4 * cols + a % w / 4))
                (4 * (a / w % 4) + a % w % 4))
              s.width s.height))))

/-- R203 (with R66, R200, R201, R202): IMG_ENC. After the header, block position `k` is eight bytes of the red plane's
block and eight of the green plane's. That one MODE_TIE holds for the machine is DESIGN CHOICE, assumption log 16. The ownership window it leaves
open (R266), in place of one open before, is the model's choice (DESIGN CHOICE, assumption log 25). -/
def Obligations.ImgEncRule : Prop :=
  decode (.cmd 0x00000007#32) = .ok .imgEnc ∧
  ∀ (s : State) (w h cols n : Nat), s.busy = false → s.dst.wf = true →
    w = s.width.toNat → h = s.height.toNat → cols = (w + 3) / 4 → n = cols * ((h + 3) / 4) →
    (s.params.srcCap.toNat < s.srcLen.toNat → endsInError .imgEnc s 0x46#32) ∧
    (s.srcLen.toNat ≤ s.params.srcCap.toNat →
      (w = 0 ∨ h = 0 → endsInError .imgEnc s 0x26#32) ∧
      (0 < w → 0 < h →
        (s.srcLen.toNat ≠ 4 * w * h → endsInError .imgEnc s 0x26#32) ∧
        (s.srcLen.toNat = 4 * w * h →
          (s.params.dstCap.toNat < 12 + 16 * n → endsInError .imgEnc s 0x46#32) ∧
          (12 + 16 * n ≤ s.params.dstCap.toNat →
            succeeds .imgEnc s (12 + 16 * n)
              (fun a =>
                if a < 12 then (hdrBytes s.width s.height).getD a 0#8
                else codedByte s.params.modeTie (fun p => s.srcByte (4 * p + (a - 12) / 8 % 2)) w h
                  ((a - 12) / 16 / cols) ((a - 12) / 16 % cols) ((a - 12) % 8))
              s.width s.height))))

/-- R206 (with R61, R204, R205, R235): IMG_DEC, its checks in the rule's order; the dimensions come from the stream's
header. Output byte `4*p + c` is component `c` of pixel `p`; the alpha 0xFF is R205's (PRESUMED, assumption log 17).
The ownership window it leaves
open (R266), with its marks over WIDTH and HEIGHT, in place of one open before, is the model's choice (DESIGN CHOICE,
assumption log 25). -/
def Obligations.ImgDecRule : Prop :=
  decode (.cmd 0x00000008#32) = .ok .imgDec ∧
  ∀ (s : State) (w h cols n : Nat), s.busy = false → s.dst.wf = true →
    w = (s.dimInSrc 4).toNat → h = (s.dimInSrc 8).toNat → cols = (w + 3) / 4 →
    n = cols * ((h + 3) / 4) →
    (s.params.srcCap.toNat < s.srcLen.toNat → endsInError .imgDec s 0x46#32) ∧
    (s.srcLen.toNat ≤ s.params.srcCap.toNat →
      (s.srcLen.toNat < 12 → endsInError .imgDec s 0x16#32) ∧
      (12 ≤ s.srcLen.toNat →
        (¬ s.magicInSrc → endsInError .imgDec s 0x16#32) ∧
        (s.magicInSrc →
          (w = 0 ∨ h = 0 → endsInError .imgDec s 0x26#32) ∧
          (0 < w → 0 < h →
            (s.srcLen.toNat ≠ 12 + 16 * n → endsInError .imgDec s 0x16#32) ∧
            (s.srcLen.toNat = 12 + 16 * n →
              (s.params.dstCap.toNat < 4 * w * h → endsInError .imgDec s 0x46#32) ∧
              (4 * w * h ≤ s.params.dstCap.toNat →
                ∀ chan : Nat → Nat → Byte,
                  (∀ c p, chan c p = decodedSample s.srcByte
                    (12 + 16 * (p / w / 4 * cols + p % w / 4) + 8 * c)
                    (4 * (p / w % 4) + p % w % 4)) →
                  succeeds .imgDec s (4 * w * h)
                    (fun a => match a % 4 with
                      | 0 => chan 0 (a / 4)
                      | 1 => chan 1 (a / 4)
                      | 2 => blue s.params.roundHalf s.blueMode (chan 0 (a / 4)) (chan 1 (a / 4))
                      | _ => 0xFF#8)
                    (s.dimInSrc 4) (s.dimInSrc 8)))))))

/-- R227 (with R68, R221, R222, R223, R225): BLUE in its four modes. The ownership window it leaves
open (R266), in place of one open before, is the model's choice (DESIGN CHOICE, assumption log 25). -/
def Obligations.BlueRule : Prop :=
  decode (.cmd 0x00000009#32) = .ok .blue ∧
  ∀ s : State, s.busy = false → s.dst.wf = true →
    (s.params.srcCap.toNat < s.srcLen.toNat → endsInError .blue s 0x46#32) ∧
    (s.srcLen.toNat ≤ s.params.srcCap.toNat →
      (s.srcLen.toNat ≠ 2 → endsInError .blue s 0x26#32) ∧
      (s.srcLen.toNat = 2 →
        (s.params.dstCap.toNat < 1 → endsInError .blue s 0x46#32) ∧
        (1 ≤ s.params.dstCap.toNat →
          (s.blueMode = 0#2 → succeeds .blue s 1 (fun _ => 0#8) s.width s.height) ∧
          (s.blueMode = 1#2 → succeeds .blue s 1 (fun _ => 255#8) s.width s.height) ∧
          (s.blueMode = 2#2 → succeeds .blue s 1 (fun _ => s.srcByte 0) s.width s.height) ∧
          (s.blueMode = 3#2 →
            succeeds .blue s 1 (fun _ => blueNormal s.params.roundHalf (s.srcByte 0) (s.srcByte 1))
              s.width s.height))))

/-- R233, R101: every reserved CMD value ends at once in ILLEGAL_CMD and changes nothing but STATUS, DST_LEN and the
ownership window. The ownership window it leaves
open (R266), in place of one open before, is the model's choice (DESIGN CHOICE, assumption log 25). -/
def Obligations.ReservedCommandsAreIllegal : Prop :=
  ∀ (s : State) (op : BitVec 4) (zero : BitVec 28), s.busy = false →
    (∀ c : BitVec 32, c.toNat = 0 ∨ 10 ≤ c.toNat → endsInError (decodeCmd c) s 0x36#32) ∧
    endsInError .reserved0 s 0x36#32 ∧ endsInError .reserved10 s 0x36#32 ∧
    endsInError .reserved11 s 0x36#32 ∧ endsInError .reserved12 s 0x36#32 ∧
    endsInError .reserved13 s 0x36#32 ∧ endsInError .reserved14 s 0x36#32 ∧
    endsInError .reserved15 s 0x36#32 ∧ endsInError (.reservedUpper op zero) s 0x36#32

/-! ## Statements about every operation -/

/-- R32, R237, R265: the frame of the CMD rows. What the CORE never changes is unchanged; WIDTH and HEIGHT are unchanged
but by HDR_DEC and IMG_DEC; the ownership window is open (R266), in place of one open before (DESIGN CHOICE, assumption log 25); no DST byte at or above the output's end is changed (the output starts at DST address 0 and
is DST_LEN bytes long); and an operation that ends in error changes STATUS and DST_LEN alone (and opens the window). -/
def Obligations.OperationFrame : Prop :=
  ∀ (i : Instr) (op : Op) (s t : State), i.operation = some op → s.busy = false → s.dst.wf = true →
    exec i s = .next t →
    keepsInputs s t ∧
    (op ≠ .hdrDec → op ≠ .imgDec → t.width = s.width ∧ t.height = s.height) ∧
    (∀ a, t.dstLen.toNat ≤ a → t.dst.read a = s.dst.read a) ∧ t.window.isSome = true ∧
    (statusErrBit t.status = true →
      t = { s with status := t.status, dstLen := 0#66, seq := none, window := some Window.plain })

/-- R36, R238: from every idle state an operation ends, in DONE_OK or in one of the four errors, with the core ready for
the next command; and what an earlier operation left in STATUS and DST_LEN does not matter to it. -/
def Obligations.OperationsEndReady : Prop :=
  ∀ (i : Instr) (op : Op) (s : State), i.operation = some op → s.busy = false →
    ∃ t, exec i s = .next t ∧ t.busy = false ∧ t.seq = none ∧
      (t.status = 0x02#32 ∨
        (t.dstLen = 0#66 ∧ t.status ∈ [0x16#32, 0x26#32, 0x36#32, 0x46#32])) ∧
      ∀ (st : BitVec 32) (len : Len), statusBusyBit st = false →
        exec i { s with status := st, dstLen := len } = .next t

/-- R34, R31: an operation is a function of its inputs. Two idle states with equal operand registers, parameters and
`SRC[0 .. SRC_LEN-1]` end with equal registers and equal `DST[0 .. DST_LEN-1]`, whatever else they hold. -/
def Obligations.EqualInputsEqualOutputs : Prop :=
  ∀ (i : Instr) (op : Op) (s s' t t' : State), i.operation = some op →
    s.busy = false → s'.busy = false → s.dst.wf = true → s'.dst.wf = true →
    s.width = s'.width → s.height = s'.height → s.blueMode = s'.blueMode → s.srcLen = s'.srcLen →
    s.params = s'.params → (∀ a, a < s.srcLen.toNat → s.srcByte a = s'.srcByte a) →
    exec i s = .next t → exec i s' = .next t' →
    t.status = t'.status ∧ t.width = t'.width ∧ t.height = t'.height ∧ t.blueMode = t'.blueMode ∧
      t.srcLen = t'.srcLen ∧ t.dstLen = t'.dstLen ∧
      ∀ a, a < t.dstLen.toNat → t.dst.read a = t'.dst.read a

/-- R97, R200: the B and A bytes of an image have no influence on its encoding. -/
def Obligations.EncodeIgnoresBlueAndAlpha : Prop :=
  ∀ s s' t : State, s.busy = false → s.dst.wf = true →
    s' = { s with src := s'.src } → (∀ p c, c < 2 → s.srcByte (4 * p + c) = s'.srcByte (4 * p + c)) →
    exec .imgEnc s = .next t → exec .imgEnc s' = .next { t with src := s'.src }

/-! ## Registers -/

/-- R24, R39: a read of each register returns its bits zero-extended, CMD 0, idle or busy, and changes no register and
no buffer; a STATUS read that returns DONE = 1 ends the CORE's ownership of the buffers (R266). -/
def Obligations.RegisterReads : Prop :=
  ∀ s : State,
    exec (.regCmd .read) s = .next { s with hostIn := .value 0 } ∧
    exec (.regStatus .read) s = .next { s with
      hostIn := .value s.status.toNat
      window := if s.status.getLsbD 1 then none else s.window } ∧
    exec (.regWidth .read) s = .next { s with hostIn := .value s.width.toNat } ∧
    exec (.regHeight .read) s = .next { s with hostIn := .value s.height.toNat } ∧
    exec (.regBluemode .read) s = .next { s with hostIn := .value s.blueMode.toNat } ∧
    exec (.regSrcLen .read) s = .next { s with hostIn := .value s.srcLen.toNat } ∧
    exec (.regDstLen .read) s = .next { s with hostIn := .value s.dstLen.toNat }

/-- R24, R28, R29, R31: an idle write of WIDTH, HEIGHT, BLUEMODE or SRC_LEN keeps the register's implemented bits of the
value, which a read then returns, and changes nothing else (what the HOST puts in WIDTH or HEIGHT is no result of an
operation any more: that mark of the window is the model's, DESIGN CHOICE, assumption log 22); STATUS and DST_LEN ignore
it. Idle means BUSY = 0, as R37 has it, also where the window of R266 is still open (DEDUCED, assumption log 23). -/
def Obligations.RegisterWrites : Prop :=
  ∀ (s t : State) (v : Nat), s.busy = false →
    (t = { s with
        width := BitVec.ofNat 32 v, window := s.window.map fun w => { w with widthOut := false } } →
      exec (.regWidth (.write v)) s = .next t ∧ t.readReg 2 = v % 2 ^ 32) ∧
    (t = { s with
        height := BitVec.ofNat 32 v, window := s.window.map fun w => { w with heightOut := false } } →
      exec (.regHeight (.write v)) s = .next t ∧ t.readReg 3 = v % 2 ^ 32) ∧
    (t = { s with blueMode := BitVec.ofNat 2 v } →
      exec (.regBluemode (.write v)) s = .next t ∧ t.readReg 4 = v % 4) ∧
    (t = { s with srcLen := BitVec.ofNat 66 v } →
      exec (.regSrcLen (.write v)) s = .next t ∧ t.readReg 5 = v % 2 ^ 66) ∧
    exec (.regStatus (.write v)) s = .next s ∧ exec (.regDstLen (.write v)) s = .next s

/-- R25, R36, R266: an idle write of CMD is the start step: BUSY = 1, DONE, ERR and ECODE cleared, SEQ at
(OP, CHECK, 0, 0, 0), the CORE's ownership of the buffers begun, nothing else changed. That a window still
open from the operation before gives way to the new one is the model's choice (DESIGN CHOICE, assumption log 25). -/
def Obligations.CmdWriteIsStartStep : Prop :=
  ∀ (s : State) (v : Nat), s.busy = false →
    exec (.regCmd (.write v)) s = .next { s with
      status := 0x01#32
      seq := some { op := opOfCmd (BitVec.ofNat 32 v), phase := .check, br := 0, bc := 0, ch := 0 }
      window := some Window.plain }

/-- R25, R37: while BUSY = 1 a CMD write and every other register write change nothing. -/
def Obligations.BusyIgnoresRegisterWrites : Prop :=
  ∀ (s : State) (v : Nat), s.busy = true →
    (∀ (i : Instr) (op : Op), i.operation = some op → exec i s = .next s) ∧
    exec (.regCmd (.write v)) s = .next s ∧ exec (.regStatus (.write v)) s = .next s ∧
    exec (.regWidth (.write v)) s = .next s ∧ exec (.regHeight (.write v)) s = .next s ∧
    exec (.regBluemode (.write v)) s = .next s ∧ exec (.regSrcLen (.write v)) s = .next s ∧
    exec (.regDstLen (.write v)) s = .next s

/-! ## HOST accesses to the buffers -/

/-- The DATA rows as `PUT SRC` (R27, R91, R94, R96, R97, R108; that a DATA row is this access is the model's choice,
DESIGN CHOICE, assumption log 5): in an idle state each places its bytes at its address, and changes no other SRC byte;
and nothing else changes when the HOST owns the buffers. In the window of R266 the result of the operation is then any
value: its output bytes, and WIDTH and HEIGHT where it put them there (which values, DESIGN CHOICE, assumption
log 22; that this holds of every SRC write, also at or above SRC_LEN, DESIGN CHOICE, assumption log 26). -/
def Obligations.DataRowsPlaceBytesInSrc : Prop :=
  ∀ (s : State) (a : Len) (w h : Dim) (b : EncodedBlock) (body : List (EncodedBlock × EncodedBlock))
    (r g bl al : Byte), s.busy = false → s.src.wf = true →
    (∀ (i : Instr) (bs : List Byte),
      (i = .header a w h ∧ bs = hdrBytes w h) ∨ (i = .encodedBlock a b ∧ bs = pack b) ∨
        (i = .stream a w h body ∧ bs = hdrBytes w h ++ body.flatMap fun p => pack p.1 ++ pack p.2) ∨
        (i = .pixel a r g bl al ∧ bs = [r, g, bl, al]) →
      a.toNat + bs.length ≤ s.params.srcCap.toNat →
      ∃ t, exec i s = .next t ∧ srcWriteKeeps s t ∧
        (∀ j, j < bs.length → t.src.read (a.toNat + j) = some (bs.getD j 0#8)) ∧
        (∀ c, c < a.toNat ∨ a.toNat + bs.length ≤ c → t.src.read c = s.src.read c))

/-- Where the DATA rows stop: outside SRC (R27; that the stop is a fault is DESIGN CHOICE, assumption log 14) and, as U6
says, while BUSY = 1 (DESIGN CHOICE, assumption log 15). -/
def Obligations.DataRowsStop : Prop :=
  ∀ (i : Instr) (a : Len) (bs : List Byte) (s : State), i.datum = some (a, bs) →
    (s.busy = true → exec i s = .refused .srcWriteWhileBusy) ∧
    (s.busy = false → s.params.srcCap.toNat < a.toNat + bs.length →
      exec i s = .fault .srcOutOfRange)

/-- R108 `GET`, R27, R37, R266: a read of DST inside the space, from a HOST that owns it, and a read of SRC at any time
(DEDUCED, assumption log 10), returns its bytes, the stored one wherever one is stored, and changes nothing of the core;
from the CMD write to the STATUS read that returns DONE = 1 a read of DST returns that many bytes of any value. -/
def Obligations.HostBufferReads : Prop :=
  ∀ (s : State) (a : Len) (n : Nat) (rest : List HostAction),
    (s.script = .getDst a n :: rest → a.toNat + n ≤ s.params.dstCap.toNat →
      (s.busy = false → s.window = none → ∃ bs : List Byte, bs.length = n ∧
        step s = .next { s with script := rest, hostIn := .bytes bs } ∧
        ∀ j, j < n → bs.getD j 0#8 = s.dstByte (a.toNat + j) ∧
          ∀ b, s.dst.read (a.toNat + j) = some b → bs.getD j 0#8 = b) ∧
      (s.busy = true ∨ s.window ≠ none → ∃ bs : List Byte, bs.length = n ∧ step s = .next { s with
        script := rest, hostIn := .bytes bs, freeCtr := s.freeCtr + n })) ∧
    (s.script = .getSrc a n :: rest → a.toNat + n ≤ s.params.srcCap.toNat →
      ∃ bs : List Byte, bs.length = n ∧
        step s = .next { s with script := rest, hostIn := .bytes bs } ∧
        ∀ j, j < n → bs.getD j 0#8 = s.srcByte (a.toNat + j) ∧
          ∀ b, s.src.read (a.toNat + j) = some b → bs.getD j 0#8 = b)

/-- R27, R108, R266: plain bytes put in SRC, and a HOST write of DST, are stored and change nothing else when the HOST owns
the buffers. In the window of R266, with BUSY = 0, SRC bytes are stored and the result is any value (DESIGN CHOICE,
assumption logs 22 and 26), and each byte written to DST survives or not. -/
def Obligations.HostBufferWrites : Prop :=
  ∀ (s : State) (a : Len) (bs : List Byte) (rest : List HostAction), s.busy = false →
    s.src.wf = true → s.dst.wf = true →
    (s.script = .request (.put .plain a bs) :: rest → a.toNat + bs.length ≤ s.params.srcCap.toNat →
      ∃ t, step s = .next t ∧ srcWriteKeeps { s with script := rest } t ∧
        ∀ c, t.src.read c =
          if a.toNat ≤ c ∧ c < a.toNat + bs.length then some (bs.getD (c - a.toNat) 0#8)
          else s.src.read c) ∧
    (s.script = .putDst a bs :: rest → a.toNat + bs.length ≤ s.params.dstCap.toNat →
      ∃ t, step s = .next t ∧ t = { s with script := rest, dst := t.dst, freeCtr := t.freeCtr } ∧
        (∀ c, c < a.toNat ∨ a.toNat + bs.length ≤ c → t.dst.read c = s.dst.read c) ∧
        (s.window = none → t.freeCtr = s.freeCtr ∧
          ∀ j, j < bs.length → t.dst.read (a.toNat + j) = some (bs.getD j 0#8)) ∧
        (∀ j, j < bs.length → t.dst.read (a.toNat + j) = some (bs.getD j 0#8) ∨
          t.dst.read (a.toNat + j) = some (s.dstByte (a.toNat + j))))

/-- R108 `WAIT`: idle, it is a read of STATUS, which ends the CORE's ownership of the buffers where it returns DONE = 1
(R266); busy, the CORE moves and the HOST goes on waiting. That a WAIT in a busy state is a move of the CORE is the
model's choice of who moves next, which no rule says (DESIGN CHOICE, assumption log 1). -/
def Obligations.WaitPollsStatus : Prop :=
  ∀ (s : State) (rest : List HostAction), s.script = .wait :: rest →
    (s.busy = false →
      step s = .next { s with
        script := rest
        hostIn := .value s.status.toNat
        window := if s.status.getLsbD 1 then none else s.window }) ∧
    (s.busy = true → step s = .next (coreMove s) ∧ (coreMove s).script = s.script)

/-- R266: the CORE's ownership of the buffers begins with the CMD write and ends with the STATUS read that returns
DONE = 1. A CMD row and an idle write of CMD open the window; while it is open every step leaves it open but a STATUS
read (a WAIT among them) that returns DONE = 1 and, by the model's deduction (DEDUCED, assumption log 24), the reset
input; and with no operation running nothing but a CMD row or a write of CMD opens it. -/
def Obligations.OwnershipWindow : Prop :=
  (∀ (i : Instr) (s t : State), s.busy = false → exec i s = .next t →
    (i.operation ≠ none ∨ ∃ v, i = .regCmd (.write v)) → t.window ≠ none) ∧
  (∀ s t : State, step s = .next t → s.window ≠ none → t.window = none →
    (∃ rest, s.script = .reset :: rest) ∨
    (statusDoneBit s.status = true ∧ t.hostIn = .value s.status.toNat ∧
      ∃ rest, s.script = .request (.regRead 1) :: rest ∨ s.script = .wait :: rest)) ∧
  (∀ s t : State, step s = .next t → s.seq = none → s.window = none → t.window ≠ none →
    ∃ rest, (∃ c, s.script = .request (.cmd c) :: rest) ∨
      ∃ v, s.script = .request (.regWrite 0 v) :: rest)

/-! ## The CORE while BUSY = 1 -/

/-- R37, R265: a move of the CORE never changes SRC, BLUEMODE, SRC_LEN or anything of the HOST's; and while the operation
goes on, STATUS, WIDTH, HEIGHT and DST_LEN keep their values. -/
def Obligations.CoreMoveFrame : Prop :=
  ∀ s : State, keepsInputs s (coreMove s) ∧
    ((coreMove s).seq ≠ none →
      coreMove s = { s with dst := (coreMove s).dst, seq := (coreMove s).seq })

/-- R38, R36: the two-step life of an operation ends where the atomic one does. A value written to CMD, and then moves of
the CORE alone, reach after finitely many steps exactly the state that running that value whole gives. -/
def Obligations.SequencerRefinesAtomic : Prop :=
  ∀ (s t : State) (v : Nat), s.busy = false → s.dst.wf = true → s.script = [] →
    exec (decodeCmd (BitVec.ofNat 32 v)) s = .next t →
    ∃ k, Host.Core.run Sys2Proof.core (k + 1)
      { s with script := [.request (.regWrite 0 v)] } = .next t

/-! ## The invariant -/

/-- `State.reset` has the invariant. -/
def Obligations.ResetHasInvariant : Prop := State.reset.inv = true

/-- R26, R32, R36, R73: every step keeps the invariant, from every state that has it, idle or busy. -/
def Obligations.StepKeepsInvariant : Prop :=
  ∀ s t : State, s.inv = true → step s = .next t → t.inv = true

/-- R21, R8: no step changes a parameter. -/
def Obligations.StepKeepsParameters : Prop :=
  ∀ s t : State, step s = .next t → t.params = s.params
end

