-- ==== Sys2Proof/Laws/Memory.lean ====
section
/-! SUPPORT. The laws of the buffers: a read after a write, what a write leaves alone, the canonical form and
extensionality of canonical memories. -/

namespace Sys2Proof.Machine

@[simp] theorem Memory.read_nil (a : Nat) : Memory.read [] a = none := rfl

@[simp] theorem Memory.read_cons (c : Host.Cell) (m : Memory) (a : Nat) :
    Memory.read (c :: m) a = if c.1 = a then some c.2 else Memory.read m a := rfl

@[simp] theorem Memory.writeBytes_nil (m : Memory) (a : Nat) : Memory.writeBytes m a [] = m := rfl

@[simp] theorem Memory.writeCells_nil (m : Memory) : Memory.writeCells m [] = m := rfl

theorem Memory.writeCells_append (cs ds : List (Nat × Byte)) :
    ∀ m : Memory, Memory.writeCells m (cs ++ ds) = Memory.writeCells (Memory.writeCells m cs) ds := by
  induction cs with
  | nil => intro m; rfl
  | cons c cs ih => intro m; exact ih _

/-- A read after a write of one byte, in a memory whose addresses rise. -/
theorem Memory.read_write (m : Memory) (a b : Nat) (v : Byte) (lo : Nat)
    (h : Memory.wfFrom lo m = true) :
    Memory.read (Memory.write m a v) b = if b = a then some v else Memory.read m b := by
  induction m generalizing lo with
  | nil => simp [Memory.write, eq_comm]
  | cons c m ih =>
    simp only [Memory.wfFrom, Bool.and_eq_true, decide_eq_true_eq] at h
    have hcons : ∀ (d : Host.Cell) (n : Memory), Memory.read (d :: n) b =
        if d.1 = b then some d.2 else Memory.read n b := fun _ _ => rfl
    unfold Memory.write
    by_cases h1 : a < c.1
    · rw [if_pos h1, hcons]
      by_cases hb : a = b
      · rw [if_pos hb, if_pos hb.symm]
      · rw [if_neg hb, if_neg fun e => hb e.symm]
    · rw [if_neg h1]
      by_cases h2 : a = c.1
      · rw [if_pos h2, hcons, hcons]
        by_cases hb : a = b
        · rw [if_pos hb, if_pos hb.symm]
        · rw [if_neg hb, if_neg fun e => hb e.symm, if_neg fun e => hb (h2.trans e)]
      · rw [if_neg h2, hcons, hcons, ih _ h.2]
        by_cases hb : c.1 = b
        · rw [if_pos hb, if_neg fun e => h2 (e.symm.trans hb.symm), if_pos hb]
        · rw [if_neg hb, if_neg hb]

/-- A write of one byte leaves every other address alone, whatever the memory. -/
theorem Memory.read_write_of_ne (m : Memory) (a b : Nat) (v : Byte) (h : b ≠ a) :
    Memory.read (Memory.write m a v) b = Memory.read m b := by
  induction m with
  | nil => simp [Memory.write, Ne.symm h]
  | cons c m ih =>
    unfold Memory.write
    split
    · simp [Ne.symm h]
    · split
      · rename_i h2
        simp [Ne.symm h, ← h2]
      · simp [ih]

/-- A write of bytes leaves the addresses outside them alone, whatever the memory. -/
theorem Memory.read_writeBytes_of_outside (bs : List Byte) : ∀ (m : Memory) (a b : Nat),
    b < a ∨ a + bs.length ≤ b → Memory.read (Memory.writeBytes m a bs) b = Memory.read m b := by
  induction bs with
  | nil => intro m a b _; rfl
  | cons v bs ih =>
    intro m a b h
    rw [List.length_cons] at h
    rw [Memory.writeBytes, ih _ _ _ (by omega), Memory.read_write_of_ne _ _ _ _ (by omega)]

/-- The canonical form bounds every listed address from below. -/
theorem Memory.wfFrom_mono (m : Memory) (lo lo' : Nat) (hl : lo' ≤ lo)
    (h : Memory.wfFrom lo m = true) : Memory.wfFrom lo' m = true := by
  cases m with
  | nil => rfl
  | cons c m =>
    simp only [Memory.wfFrom, Bool.and_eq_true, decide_eq_true_eq] at h ⊢
    exact ⟨by omega, h.2⟩

theorem Memory.wfFrom_write (m : Memory) (a : Nat) (v : Byte) (lo : Nat) (ha : lo ≤ a)
    (h : Memory.wfFrom lo m = true) : Memory.wfFrom lo (Memory.write m a v) = true := by
  induction m generalizing lo with
  | nil => simp [Memory.write, Memory.wfFrom, ha]
  | cons c m ih =>
    simp only [Memory.wfFrom, Bool.and_eq_true, decide_eq_true_eq] at h
    unfold Memory.write
    split
    · simp only [Memory.wfFrom, Bool.and_eq_true, decide_eq_true_eq]
      exact ⟨ha, by omega, h.2⟩
    · split
      · rename_i h1 h2
        simp only [Memory.wfFrom, Bool.and_eq_true, decide_eq_true_eq]
        exact ⟨ha, h2 ▸ h.2⟩
      · simp only [Memory.wfFrom, Bool.and_eq_true, decide_eq_true_eq]
        exact ⟨h.1, ih _ (by omega) h.2⟩

/-- Writing one byte keeps the canonical form. -/
theorem Memory.wf_write (m : Memory) (a : Nat) (v : Byte) (h : m.wf = true) :
    (Memory.write m a v).wf = true := Memory.wfFrom_write m a v 0 (Nat.zero_le _) h

/-- Writing a sequence of bytes keeps the canonical form. -/
theorem Memory.wf_writeBytes (bs : List Byte) : ∀ (m : Memory) (a : Nat), m.wf = true →
    (Memory.writeBytes m a bs).wf = true := by
  induction bs with
  | nil => intro m a h; exact h
  | cons b bs ih => intro m a h; exact ih _ _ (Memory.wf_write m a b h)

/-- Writing cells keeps the canonical form. -/
theorem Memory.wf_writeCells (cs : List (Nat × Byte)) : ∀ m : Memory, m.wf = true →
    (Memory.writeCells m cs).wf = true := by
  induction cs with
  | nil => intro m h; exact h
  | cons c cs ih => intro m h; exact ih _ (Memory.wf_write m c.1 c.2 h)

/-- What a sequence of bytes written at `a` leaves at each address. -/
theorem Memory.read_writeBytes (bs : List Byte) : ∀ (m : Memory) (a b : Nat), m.wf = true →
    Memory.read (Memory.writeBytes m a bs) b =
      if a ≤ b ∧ b < a + bs.length then some (bs.getD (b - a) 0#8) else Memory.read m b := by
  induction bs with
  | nil => intro m a b _; simp
  | cons v bs ih =>
    intro m a b h
    rw [Memory.writeBytes, ih _ _ _ (Memory.wf_write m a v h), Memory.read_write m a b v 0 h]
    by_cases hb : b = a
    · subst hb; simp
    · by_cases hr : a ≤ b ∧ b < a + (v :: bs).length
      · have h1 : a + 1 ≤ b ∧ b < a + 1 + bs.length := by
          simp only [List.length_cons] at hr; omega
        have h2 : b - a = (b - (a + 1)) + 1 := by omega
        rw [if_pos h1, if_pos hr, h2, List.getD_cons_succ]
      · have h1 : ¬ (a + 1 ≤ b ∧ b < a + 1 + bs.length) := by
          simp only [List.length_cons] at hr; omega
        rw [if_neg h1, if_neg hr, if_neg hb]

/-- Bytes outside the ones written keep what they held. -/
theorem Memory.read_writeBytes_outside (bs : List Byte) (m : Memory) (a b : Nat) (h : m.wf = true)
    (hb : ¬ (a ≤ b ∧ b < a + bs.length)) :
    Memory.read (Memory.writeBytes m a bs) b = Memory.read m b := by
  rw [Memory.read_writeBytes bs m a b h, if_neg hb]

/-- Cells written leave every other address alone. -/
theorem Memory.read_writeCells_outside (cs : List (Nat × Byte)) : ∀ (m : Memory) (b : Nat),
    m.wf = true → (∀ c ∈ cs, c.1 ≠ b) → Memory.read (Memory.writeCells m cs) b = Memory.read m b := by
  induction cs with
  | nil => intro m b _ _; rfl
  | cons c cs ih =>
    intro m b h hc
    rw [Memory.writeCells, ih _ _ (Memory.wf_write m c.1 c.2 h) fun d hd => hc d (by simp [hd]),
      Memory.read_write m c.1 b c.2 0 h, if_neg fun e => hc c (by simp) e.symm]

theorem Memory.read_below (m : Memory) (lo a : Nat) (h : Memory.wfFrom lo m = true) (ha : a < lo) :
    Memory.read m a = none := by
  induction m generalizing lo with
  | nil => rfl
  | cons c m ih =>
    simp only [Memory.wfFrom, Bool.and_eq_true, decide_eq_true_eq] at h
    rw [Memory.read_cons, if_neg (by omega), ih _ h.2 (by omega)]

theorem Memory.ext_from (m n : Memory) (lo : Nat) (hm : Memory.wfFrom lo m = true)
    (hn : Memory.wfFrom lo n = true) (h : ∀ a, Memory.read m a = Memory.read n a) : m = n := by
  induction m generalizing n lo with
  | nil =>
    cases n with
    | nil => rfl
    | cons d n => have := h d.1; simp at this
  | cons c m ih =>
    cases n with
    | nil => have := h c.1; simp at this
    | cons d n =>
      simp only [Memory.wfFrom, Bool.and_eq_true, decide_eq_true_eq] at hm hn
      have hcd : c.1 = d.1 := by
        rcases Nat.lt_trichotomy c.1 d.1 with hl | he | hl
        · have := h c.1
          rw [Memory.read_cons, if_pos rfl, Memory.read_cons, if_neg (by omega),
            Memory.read_below n _ _ hn.2 (by omega)] at this
          cases this
        · exact he
        · have := h d.1
          rw [Memory.read_cons, if_neg (by omega), Memory.read_below m _ _ hm.2 (by omega),
            Memory.read_cons, if_pos rfl] at this
          cases this
      have hv : c.2 = d.2 := by
        have := h c.1
        rw [Memory.read_cons, if_pos rfl, Memory.read_cons, if_pos hcd.symm] at this
        exact Option.some.inj this
      have htl : m = n := by
        refine ih n (c.1 + 1) hm.2 (hcd ▸ hn.2) fun a => ?_
        by_cases ha : a < c.1 + 1
        · rw [Memory.read_below m _ a hm.2 ha, Memory.read_below n _ a hn.2 (by omega)]
        · have := h a
          rwa [Memory.read_cons, if_neg (by omega), Memory.read_cons, if_neg (by omega)] at this
      rw [Prod.ext hcd hv, htl]

/-- Two canonical memories that read alike are equal data. -/
theorem Memory.ext_of_wf (m n : Memory) (hm : m.wf = true) (hn : n.wf = true)
    (h : ∀ a, Memory.read m a = Memory.read n a) : m = n := Memory.ext_from m n 0 hm hn h

/-- The memories of the reset state are canonical. -/
theorem reset_memories_wf : State.reset.src.wf = true ∧ State.reset.dst.wf = true := ⟨rfl, rfl⟩

end Sys2Proof.Machine
end

