-- ==== Sys2Proof/Laws/State.lean ====
section
/-! SUPPORT. The small lemmas of the state's updates: one per field per update, so that no later proof unfolds
a record update. -/

namespace Sys2Proof.Machine

@[simp] theorem startOperation_status (op : Op) (s : State) : (startOperation op s).status = statusBusy := rfl

@[simp] theorem startOperation_width (op : Op) (s : State) : (startOperation op s).width = s.width := rfl

@[simp] theorem startOperation_height (op : Op) (s : State) : (startOperation op s).height = s.height := rfl

@[simp] theorem startOperation_blueMode (op : Op) (s : State) : (startOperation op s).blueMode = s.blueMode := rfl

@[simp] theorem startOperation_srcLen (op : Op) (s : State) : (startOperation op s).srcLen = s.srcLen := rfl

@[simp] theorem startOperation_dstLen (op : Op) (s : State) : (startOperation op s).dstLen = s.dstLen := rfl

@[simp] theorem startOperation_src (op : Op) (s : State) : (startOperation op s).src = s.src := rfl

@[simp] theorem startOperation_dst (op : Op) (s : State) : (startOperation op s).dst = s.dst := rfl

@[simp] theorem startOperation_seq (op : Op) (s : State) : (startOperation op s).seq = some { op := op, phase := .check, br := 0, bc := 0, ch := 0 } := rfl

@[simp] theorem startOperation_window (op : Op) (s : State) :
    (startOperation op s).window = some Window.plain := rfl

@[simp] theorem startOperation_params (op : Op) (s : State) : (startOperation op s).params = s.params := rfl

@[simp] theorem startOperation_script (op : Op) (s : State) : (startOperation op s).script = s.script := rfl

@[simp] theorem startOperation_hostIn (op : Op) (s : State) : (startOperation op s).hostIn = s.hostIn := rfl

@[simp] theorem startOperation_epoch (op : Op) (s : State) : (startOperation op s).epoch = s.epoch := rfl

@[simp] theorem startOperation_freeCtr (op : Op) (s : State) : (startOperation op s).freeCtr = s.freeCtr := rfl

@[simp] theorem raiseError_status (e : ErrKind) (s : State) : (raiseError e s).status = statusDoneErr e := rfl

@[simp] theorem raiseError_width (e : ErrKind) (s : State) : (raiseError e s).width = s.width := rfl

@[simp] theorem raiseError_height (e : ErrKind) (s : State) : (raiseError e s).height = s.height := rfl

@[simp] theorem raiseError_blueMode (e : ErrKind) (s : State) : (raiseError e s).blueMode = s.blueMode := rfl

@[simp] theorem raiseError_srcLen (e : ErrKind) (s : State) : (raiseError e s).srcLen = s.srcLen := rfl

@[simp] theorem raiseError_dstLen (e : ErrKind) (s : State) : (raiseError e s).dstLen = 0#66 := rfl

@[simp] theorem raiseError_src (e : ErrKind) (s : State) : (raiseError e s).src = s.src := rfl

@[simp] theorem raiseError_dst (e : ErrKind) (s : State) : (raiseError e s).dst = s.dst := rfl

@[simp] theorem raiseError_seq (e : ErrKind) (s : State) : (raiseError e s).seq = none := rfl

@[simp] theorem raiseError_window (e : ErrKind) (s : State) :
    (raiseError e s).window = some Window.plain := rfl

@[simp] theorem raiseError_params (e : ErrKind) (s : State) : (raiseError e s).params = s.params := rfl

@[simp] theorem raiseError_script (e : ErrKind) (s : State) : (raiseError e s).script = s.script := rfl

@[simp] theorem raiseError_hostIn (e : ErrKind) (s : State) : (raiseError e s).hostIn = s.hostIn := rfl

@[simp] theorem raiseError_epoch (e : ErrKind) (s : State) : (raiseError e s).epoch = s.epoch := rfl

@[simp] theorem raiseError_freeCtr (e : ErrKind) (s : State) : (raiseError e s).freeCtr = s.freeCtr := rfl

@[simp] theorem commitRegisters_status (c : Completion) (s : State) : (commitRegisters c s).status = statusDoneOk := rfl

@[simp] theorem commitRegisters_width (c : Completion) (s : State) : (commitRegisters c s).width = (c.dims.map Prod.fst).getD s.width := rfl

@[simp] theorem commitRegisters_height (c : Completion) (s : State) : (commitRegisters c s).height = (c.dims.map Prod.snd).getD s.height := rfl

@[simp] theorem commitRegisters_blueMode (c : Completion) (s : State) : (commitRegisters c s).blueMode = s.blueMode := rfl

@[simp] theorem commitRegisters_srcLen (c : Completion) (s : State) : (commitRegisters c s).srcLen = s.srcLen := rfl

@[simp] theorem commitRegisters_dstLen (c : Completion) (s : State) : (commitRegisters c s).dstLen = BitVec.ofNat 66 c.len := rfl

@[simp] theorem commitRegisters_src (c : Completion) (s : State) : (commitRegisters c s).src = s.src := rfl

@[simp] theorem commitRegisters_dst (c : Completion) (s : State) : (commitRegisters c s).dst = s.dst := rfl

@[simp] theorem commitRegisters_seq (c : Completion) (s : State) : (commitRegisters c s).seq = none := rfl

@[simp] theorem commitRegisters_window (c : Completion) (s : State) :
    (commitRegisters c s).window = some { widthOut := c.dims.isSome, heightOut := c.dims.isSome } := rfl

@[simp] theorem commitRegisters_params (c : Completion) (s : State) : (commitRegisters c s).params = s.params := rfl

@[simp] theorem commitRegisters_script (c : Completion) (s : State) : (commitRegisters c s).script = s.script := rfl

@[simp] theorem commitRegisters_hostIn (c : Completion) (s : State) : (commitRegisters c s).hostIn = s.hostIn := rfl

@[simp] theorem commitRegisters_epoch (c : Completion) (s : State) : (commitRegisters c s).epoch = s.epoch := rfl

@[simp] theorem commitRegisters_freeCtr (c : Completion) (s : State) : (commitRegisters c s).freeCtr = s.freeCtr := rfl

@[simp] theorem storeOutput_status (c : Completion) (s : State) : (storeOutput c s).status = s.status := rfl

@[simp] theorem storeOutput_width (c : Completion) (s : State) : (storeOutput c s).width = s.width := rfl

@[simp] theorem storeOutput_height (c : Completion) (s : State) : (storeOutput c s).height = s.height := rfl

@[simp] theorem storeOutput_blueMode (c : Completion) (s : State) : (storeOutput c s).blueMode = s.blueMode := rfl

@[simp] theorem storeOutput_srcLen (c : Completion) (s : State) : (storeOutput c s).srcLen = s.srcLen := rfl

@[simp] theorem storeOutput_dstLen (c : Completion) (s : State) : (storeOutput c s).dstLen = s.dstLen := rfl

@[simp] theorem storeOutput_src (c : Completion) (s : State) : (storeOutput c s).src = s.src := rfl

@[simp] theorem storeOutput_dst (c : Completion) (s : State) : (storeOutput c s).dst = s.dst.writeBytes 0 c.out := rfl

@[simp] theorem storeOutput_seq (c : Completion) (s : State) : (storeOutput c s).seq = s.seq := rfl

@[simp] theorem storeOutput_window (c : Completion) (s : State) :
    (storeOutput c s).window = s.window := rfl

@[simp] theorem storeOutput_params (c : Completion) (s : State) : (storeOutput c s).params = s.params := rfl

@[simp] theorem storeOutput_script (c : Completion) (s : State) : (storeOutput c s).script = s.script := rfl

@[simp] theorem storeOutput_hostIn (c : Completion) (s : State) : (storeOutput c s).hostIn = s.hostIn := rfl

@[simp] theorem storeOutput_epoch (c : Completion) (s : State) : (storeOutput c s).epoch = s.epoch := rfl

@[simp] theorem storeOutput_freeCtr (c : Completion) (s : State) : (storeOutput c s).freeCtr = s.freeCtr := rfl

@[simp] theorem assertReset_status (s : State) : (assertReset s).status = 0#32 := rfl

@[simp] theorem assertReset_width (s : State) : (assertReset s).width = 0#32 := rfl

@[simp] theorem assertReset_height (s : State) : (assertReset s).height = 0#32 := rfl

@[simp] theorem assertReset_blueMode (s : State) : (assertReset s).blueMode = 0#2 := rfl

@[simp] theorem assertReset_srcLen (s : State) : (assertReset s).srcLen = 0#66 := rfl

@[simp] theorem assertReset_dstLen (s : State) : (assertReset s).dstLen = 0#66 := rfl

@[simp] theorem assertReset_src (s : State) : (assertReset s).src = [] := rfl

@[simp] theorem assertReset_dst (s : State) : (assertReset s).dst = [] := rfl

@[simp] theorem assertReset_seq (s : State) : (assertReset s).seq = none := rfl

@[simp] theorem assertReset_window (s : State) : (assertReset s).window = none := rfl

@[simp] theorem assertReset_params (s : State) : (assertReset s).params = s.params := rfl

@[simp] theorem assertReset_script (s : State) : (assertReset s).script = s.script := rfl

@[simp] theorem assertReset_hostIn (s : State) : (assertReset s).hostIn = s.hostIn := rfl

@[simp] theorem assertReset_epoch (s : State) : (assertReset s).epoch = s.epoch + 1 := rfl

@[simp] theorem assertReset_freeCtr (s : State) : (assertReset s).freeCtr = s.freeCtr := rfl

/-! ### A HOST write to SRC (R266) -/

@[simp] theorem spoilResult_status (w : Window) (s : State) :
    (spoilResult w s).status = s.status := rfl

@[simp] theorem spoilResult_width (w : Window) (s : State) :
    (spoilResult w s).width = if w.widthOut then Config.spoiltDim s.freeCtr else s.width := rfl

@[simp] theorem spoilResult_height (w : Window) (s : State) :
    (spoilResult w s).height = if w.heightOut then Config.spoiltDim (s.freeCtr + 1) else s.height := rfl

@[simp] theorem spoilResult_blueMode (w : Window) (s : State) :
    (spoilResult w s).blueMode = s.blueMode := rfl

@[simp] theorem spoilResult_srcLen (w : Window) (s : State) :
    (spoilResult w s).srcLen = s.srcLen := rfl

@[simp] theorem spoilResult_dstLen (w : Window) (s : State) :
    (spoilResult w s).dstLen = s.dstLen := rfl

@[simp] theorem spoilResult_src (w : Window) (s : State) :
    (spoilResult w s).src = s.src := rfl

@[simp] theorem spoilResult_dst (w : Window) (s : State) :
    (spoilResult w s).dst = s.dst.writeBytes 0
      ((List.range s.dstLen.toNat).map fun i => Config.spoiltByte (s.freeCtr + i)) := rfl

@[simp] theorem spoilResult_seq (w : Window) (s : State) :
    (spoilResult w s).seq = s.seq := rfl

@[simp] theorem spoilResult_window (w : Window) (s : State) :
    (spoilResult w s).window = s.window := rfl

@[simp] theorem spoilResult_params (w : Window) (s : State) :
    (spoilResult w s).params = s.params := rfl

@[simp] theorem spoilResult_script (w : Window) (s : State) :
    (spoilResult w s).script = s.script := rfl

@[simp] theorem spoilResult_hostIn (w : Window) (s : State) :
    (spoilResult w s).hostIn = s.hostIn := rfl

@[simp] theorem spoilResult_epoch (w : Window) (s : State) :
    (spoilResult w s).epoch = s.epoch := rfl

@[simp] theorem spoilResult_freeCtr (w : Window) (s : State) :
    (spoilResult w s).freeCtr = s.freeCtr + s.dstLen.toNat + 2 := rfl

@[simp] theorem storeSrc_status (a : Nat) (bs : List Byte) (s : State) :
    (storeSrc a bs s).status = s.status := by unfold storeSrc; split <;> rfl

@[simp] theorem storeSrc_blueMode (a : Nat) (bs : List Byte) (s : State) :
    (storeSrc a bs s).blueMode = s.blueMode := by unfold storeSrc; split <;> rfl

@[simp] theorem storeSrc_srcLen (a : Nat) (bs : List Byte) (s : State) :
    (storeSrc a bs s).srcLen = s.srcLen := by unfold storeSrc; split <;> rfl

@[simp] theorem storeSrc_dstLen (a : Nat) (bs : List Byte) (s : State) :
    (storeSrc a bs s).dstLen = s.dstLen := by unfold storeSrc; split <;> rfl

@[simp] theorem storeSrc_src (a : Nat) (bs : List Byte) (s : State) :
    (storeSrc a bs s).src = s.src.writeBytes a bs := by unfold storeSrc; split <;> rfl

@[simp] theorem storeSrc_seq (a : Nat) (bs : List Byte) (s : State) :
    (storeSrc a bs s).seq = s.seq := by unfold storeSrc; split <;> rfl

@[simp] theorem storeSrc_window (a : Nat) (bs : List Byte) (s : State) :
    (storeSrc a bs s).window = s.window := by unfold storeSrc; split <;> rfl

@[simp] theorem storeSrc_params (a : Nat) (bs : List Byte) (s : State) :
    (storeSrc a bs s).params = s.params := by unfold storeSrc; split <;> rfl

@[simp] theorem storeSrc_script (a : Nat) (bs : List Byte) (s : State) :
    (storeSrc a bs s).script = s.script := by unfold storeSrc; split <;> rfl

@[simp] theorem storeSrc_hostIn (a : Nat) (bs : List Byte) (s : State) :
    (storeSrc a bs s).hostIn = s.hostIn := by unfold storeSrc; split <;> rfl

@[simp] theorem storeSrc_epoch (a : Nat) (bs : List Byte) (s : State) :
    (storeSrc a bs s).epoch = s.epoch := by unfold storeSrc; split <;> rfl

theorem storeSrc_of_closed (a : Nat) (bs : List Byte) (s : State) (h : s.window = none) :
    storeSrc a bs s = { s with src := s.src.writeBytes a bs } := by simp [storeSrc, h]

theorem storeSrc_of_open (a : Nat) (b : Byte) (bs : List Byte) (s : State) (w : Window)
    (h : s.window = some w) :
    storeSrc a (b :: bs) s = spoilResult w { s with src := s.src.writeBytes a (b :: bs) } := by
  simp [storeSrc, h]

/-- What the register of a HOST read is: the window may close, nothing else is touched. -/
@[simp] theorem windowAfterRead_of_ne (s : State) (n : Nat) (h : n ≠ 1) :
    s.windowAfterRead n = s.window := by simp [State.windowAfterRead, h]

/-! ### STATUS.BUSY of the four values a step leaves -/

@[simp] theorem statusBusyBit_statusIdle : statusBusyBit statusIdle = false := by decide

@[simp] theorem statusBusyBit_statusBusy : statusBusyBit statusBusy = true := by decide

@[simp] theorem statusBusyBit_statusDoneOk : statusBusyBit statusDoneOk = false := by decide

@[simp] theorem statusBusyBit_statusDoneErr (e : ErrKind) :
    statusBusyBit (statusDoneErr e) = false := by cases e <;> decide

@[simp] theorem startOperation_busy (op : Op) (s : State) : (startOperation op s).busy = true := by
  simp [State.busy]

@[simp] theorem raiseError_busy (e : ErrKind) (s : State) : (raiseError e s).busy = false := by
  simp [State.busy]

@[simp] theorem commitRegisters_busy (c : Completion) (s : State) :
    (commitRegisters c s).busy = false := by simp [State.busy]

@[simp] theorem storeOutput_busy (c : Completion) (s : State) : (storeOutput c s).busy = s.busy := rfl

@[simp] theorem assertReset_busy (s : State) : (assertReset s).busy = false := by
  simp [State.busy, statusBusyBit]

end Sys2Proof.Machine
end

