-- ==== Sys2Proof/Laws/Ops.lean ====
section
/-! SUPPORT. One lemma per shared operation saying everything it can do: the atomic operation, the HOST's
accesses, the CORE's move and the step. -/

namespace Sys2Proof.Machine

/-! ### Operations -/

@[simp] theorem finish_error (e : ErrKind) (s : State) : finish (.error e) s = raiseError e s := rfl

@[simp] theorem finish_ok (c : Completion) (s : State) :
    finish (.ok c) s = commitRegisters c (storeOutput c s) := rfl

theorem runOperation_busy (body : State → Except ErrKind Completion) (s : State)
    (h : s.busy = true) : runOperation body s = .next s := by simp [runOperation, h]

theorem runOperation_idle (body : State → Except ErrKind Completion) (s : State)
    (h : s.busy = false) : runOperation body s = .next (finish (body s) s) := by
  simp [runOperation, h]

/-- An atomic operation always answers a next state: the same state when BUSY = 1, the error completion when
a check fails, the successful completion otherwise. -/
theorem runOperation_cases (body : State → Except ErrKind Completion) (s : State) :
    (s.busy = true ∧ runOperation body s = .next s) ∨
    (∃ e, s.busy = false ∧ body s = .error e ∧ runOperation body s = .next (raiseError e s)) ∨
    (∃ c, s.busy = false ∧ body s = .ok c ∧
      runOperation body s = .next (commitRegisters c (storeOutput c s))) := by
  cases hb : s.busy with
  | true => exact .inl ⟨rfl, runOperation_busy body s hb⟩
  | false =>
    rw [runOperation_idle body s hb]
    cases body s with
    | error e => exact .inr (.inl ⟨e, rfl, rfl, rfl⟩)
    | ok c => exact .inr (.inr ⟨c, rfl, rfl, rfl⟩)

/-- Every CMD row is the atomic operation of its rule. -/
theorem exec_of_operation (i : Instr) (op : Op) (s : State) (h : i.operation = some op) :
    exec i s = runOperation (opBody op) s := by
  cases i <;> simp only [Instr.operation, Option.some.injEq, reduceCtorEq] at h <;> subst h <;> rfl

/-- Every DATA row is a `PUT SRC` of its bytes. -/
theorem exec_of_datum (i : Instr) (a : Len) (bs : List Byte) (s : State)
    (h : i.datum = some (a, bs)) : exec i s = putSrc a bs s := by
  cases i <;> simp only [Instr.datum, Option.some.injEq, Prod.mk.injEq, reduceCtorEq] at h <;>
    (obtain ⟨rfl, rfl⟩ := h; rfl)

/-- Every REGISTER row is the access to its register. -/
theorem exec_of_register (i : Instr) (n : Nat) (x : RegAccess) (s : State)
    (h : i.register = some (n, x)) : exec i s = accessReg n x s := by
  cases i <;> simp only [Instr.register, Option.some.injEq, Prod.mk.injEq, reduceCtorEq] at h <;>
    (obtain ⟨rfl, rfl⟩ := h; rfl)

/-- Every row is of one of the three formats. -/
theorem instr_kinds (i : Instr) :
    (∃ op, i.operation = some op) ∨ (∃ a bs, i.datum = some (a, bs)) ∨
      (∃ n x, i.register = some (n, x)) := by
  cases i <;> first
    | exact .inl ⟨_, rfl⟩
    | exact .inr (.inl ⟨_, _, rfl⟩)
    | exact .inr (.inr ⟨_, _, rfl⟩)

/-! ### HOST accesses -/

/-- Everything a `PUT SRC` can answer. -/
theorem putSrc_cases (a : Len) (bs : List Byte) (s : State) :
    (s.busy = true ∧ putSrc a bs s = .refused .srcWriteWhileBusy) ∨
    (s.busy = false ∧ inRange s.params.srcCap a.toNat bs.length = true ∧
      putSrc a bs s = .next (storeSrc a.toNat bs s)) ∨
    (s.busy = false ∧ inRange s.params.srcCap a.toNat bs.length = false ∧
      putSrc a bs s = .fault .srcOutOfRange) := by
  cases hb : s.busy <;> cases hr : inRange s.params.srcCap a.toNat bs.length <;>
    simp [putSrc, hb, hr]

/-- Everything a HOST write to SRC leaves alone (R266). -/
theorem storeSrc_keeps (a : Nat) (bs : List Byte) (s : State) : srcWriteKeeps s (storeSrc a bs s) := by
  refine ⟨fun h => by simp [storeSrc_of_closed, h], ?_, fun w h => ?_, fun c hc => ?_⟩
  · unfold storeSrc; split <;> rfl
  · cases bs with
    | nil => simp [storeSrc, h]
    | cons b bs => rw [storeSrc_of_open _ _ _ _ w h]; constructor <;> intro h <;> simp [h]
  · unfold storeSrc
    split
    · exact Memory.read_writeBytes_of_outside _ _ _ _ (.inr (by simpa using hc))
    · rfl

/-- With no window open a HOST write of DST stores what it is given. -/
theorem dstAfterWrite_of_closed (s : State) (a : Nat) (bs : List Byte) (h : s.window = none) :
    s.dstAfterWrite a bs = bs := by simp [State.dstAfterWrite, h]

@[simp] theorem dstAfterWrite_length (s : State) (a : Nat) (bs : List Byte) :
    (s.dstAfterWrite a bs).length = bs.length := by unfold State.dstAfterWrite; split <;> simp

@[simp] theorem dstBytesRead_length (s : State) (a n : Nat) : (s.dstBytesRead a n).length = n := by
  unfold State.dstBytesRead State.dstBytes; split <;> simp

/-- Everything a HOST read of DST can answer. -/
theorem getDst_cases (a : Len) (n : Nat) (s : State) :
    (inRange s.params.dstCap a.toNat n = true ∧ s.owned = true ∧
      getDst a n s = .next { s with
        hostIn := .bytes ((List.range n).map fun i => Config.dstWhileOwned (s.freeCtr + i))
        freeCtr := s.freeCtr + n }) ∨
    (inRange s.params.dstCap a.toNat n = true ∧ s.owned = false ∧
      getDst a n s = .next { s with hostIn := .bytes (s.dstBytes a.toNat n) }) ∨
    (inRange s.params.dstCap a.toNat n = false ∧ getDst a n s = .fault .dstOutOfRange) := by
  cases hr : inRange s.params.dstCap a.toNat n <;> cases ho : s.owned <;>
    simp [getDst, State.dstBytesRead, State.drawn, hr, ho]

/-- Everything a HOST write of DST can answer. -/
theorem putDst_cases (a : Len) (bs : List Byte) (s : State) :
    (s.busy = true ∧ putDst a bs s = .refused .dstWriteWhileBusy) ∨
    (s.busy = false ∧ inRange s.params.dstCap a.toNat bs.length = true ∧
      putDst a bs s = .next { s with
        dst := s.dst.writeBytes a.toNat (s.dstAfterWrite a.toNat bs)
        freeCtr := s.drawn bs.length }) ∨
    (s.busy = false ∧ inRange s.params.dstCap a.toNat bs.length = false ∧
      putDst a bs s = .fault .dstOutOfRange) := by
  cases hb : s.busy <;> cases hr : inRange s.params.dstCap a.toNat bs.length <;>
    simp [putDst, hb, hr]

/-- Everything a register write can do. -/
theorem writeReg_cases (s : State) (n v : Nat) :
    (s.writeReg n v = s) ∨
    (s.busy = false ∧ n = 0 ∧
      s.writeReg n v = startOperation (opOfCmd (BitVec.ofNat 32 v)) s) ∨
    (s.busy = false ∧ n = 2 ∧ s.writeReg n v = { s with
      width := BitVec.ofNat 32 v, window := s.window.map fun w => { w with widthOut := false } }) ∨
    (s.busy = false ∧ n = 3 ∧ s.writeReg n v = { s with
      height := BitVec.ofNat 32 v, window := s.window.map fun w => { w with heightOut := false } }) ∨
    (s.busy = false ∧ n = 4 ∧ s.writeReg n v = { s with blueMode := BitVec.ofNat 2 v }) ∨
    (s.busy = false ∧ n = 5 ∧ s.writeReg n v = { s with srcLen := BitVec.ofNat 66 v }) := by
  cases hb : s.busy with
  | true => exact .inl (by simp [State.writeReg, hb])
  | false =>
    match n with
    | 0 => simp [State.writeReg, hb]
    | 1 => exact .inl (by simp [State.writeReg, hb])
    | 2 => simp [State.writeReg, hb]
    | 3 => simp [State.writeReg, hb]
    | 4 => simp [State.writeReg, hb]
    | 5 => simp [State.writeReg, hb]
    | n + 6 => exact .inl (by simp [State.writeReg, hb])

/-! ### The CORE and the step -/

/-- Everything a move of the CORE can do. -/
theorem coreMove_cases (s : State) :
    (s.seq = none ∧ coreMove s = s) ∨
    (∃ q e, s.seq = some q ∧ opBody q.op s = .error e ∧ coreMove s = raiseError e s) ∨
    (∃ q c, s.seq = some q ∧ opBody q.op s = .ok c ∧ q.phase = .check ∧
      coreMove s = { s with seq := some { q with phase := .run } }) ∨
    (∃ q c, s.seq = some q ∧ opBody q.op s = .ok c ∧ q.phase = .run ∧
      coreMove s = { s with
        dst := s.dst.writeCells (s.visitCells q.op q.br q.bc q.ch)
        seq := some (q.advance (s.grid q.op)) }) ∨
    (∃ q c, s.seq = some q ∧ opBody q.op s = .ok c ∧ q.phase = .complete ∧
      coreMove s = commitRegisters c s) := by
  cases hs : s.seq with
  | none => exact .inl ⟨rfl, by simp [coreMove, hs]⟩
  | some q =>
    cases ho : opBody q.op s with
    | error e => exact .inr (.inl ⟨q, e, rfl, ho, by simp [coreMove, coreMoveAt, hs, ho]⟩)
    | ok c =>
      cases hp : q.phase with
      | check =>
        exact .inr (.inr (.inl ⟨q, c, rfl, ho, hp, by simp [coreMove, coreMoveAt, hs, ho, hp]⟩))
      | run =>
        exact .inr (.inr (.inr (.inl
          ⟨q, c, rfl, ho, hp, by simp [coreMove, coreMoveAt, hs, ho, hp]⟩)))
      | complete =>
        exact .inr (.inr (.inr (.inr
          ⟨q, c, rfl, ho, hp, by simp [coreMove, coreMoveAt, hs, ho, hp]⟩)))

theorem step_of_nil (s : State) (h : s.script = []) : step s = .next (coreMove s) := by
  simp [step, machineStep, h]

theorem step_of_cons (s : State) (a : HostAction) (rest : List HostAction)
    (h : s.script = a :: rest) : step s = hostMove a { s with script := rest } := by
  simp [step, machineStep, h]

/-- A request that decodes is the execution of its instruction. -/
theorem execRequest_of_decode (r : Request) (i : Instr) (s : State) (h : decode r = .ok i) :
    execRequest r s = exec i s := by simp [execRequest, h]

end Sys2Proof.Machine
end

