-- ==== Sys2Proof/Laws/Formats.lean ====
section
/-! SUPPORT. The lengths of the formats and of the outputs (spec/30_encoding.md R90: every format is of fixed
length), and the bound every completion keeps (spec/60_exceptions.md R234). -/

namespace Sys2Proof.Machine

@[simp] theorem be32_length (v : BitVec 32) : (be32 v).length = 4 := rfl

@[simp] theorem magic_length : magic.length = 4 := rfl

@[simp] theorem hdrBytes_length (w h : Dim) : (hdrBytes w h).length = 12 := rfl

@[simp] theorem pack_length (b : EncodedBlock) : (pack b).length = 8 := by simp [pack]

@[simp] theorem unpack_idx_length (bs : List Byte) : (unpack bs).idx.length = 16 := by simp [unpack]

@[simp] theorem pixelBytes_length (r g b al : Byte) : (pixelBytes r g b al).length = 4 := rfl

@[simp] theorem bodyBytes_length (body : List (EncodedBlock × EncodedBlock)) :
    (bodyBytes body).length = 16 * body.length := by
  induction body with
  | nil => rfl
  | cons p body ih =>
    have hc : bodyBytes (p :: body) = pack p.1 ++ pack p.2 ++ bodyBytes body := rfl
    rw [hc]
    simp only [List.length_append, pack_length, ih, List.length_cons]
    omega

@[simp] theorem streamBytes_length (w h : Dim) (body : List (EncodedBlock × EncodedBlock)) :
    (streamBytes w h body).length = 12 + 16 * body.length := by simp [streamBytes]

@[simp] theorem pal8_length (e0 e1 : Byte) : (pal8 e0 e1).length = 8 := by simp [pal8]

@[simp] theorem pal6_length (e0 e1 : Byte) : (pal6 e0 e1).length = 8 := by simp [pal6]

@[simp] theorem palette_length (e0 e1 : Byte) : (palette e0 e1).length = 8 := by
  unfold palette; split <;> simp

@[simp] theorem blkDecode_length (bs : List Byte) : (blkDecode bs).length = 16 := by simp [blkDecode]

@[simp] theorem blkEncode_length (tie : ModeTie) (ss : List Byte) : (blkEncode tie ss).length = 8 := by
  simp [blkEncode]

@[simp] theorem gather_length (p : Nat → Byte) (w h br bc : Nat) : (gather p w h br bc).length = 16 := by
  simp [gather]

@[simp] theorem srcBytes_length (s : State) (a n : Nat) : (s.srcBytes a n).length = n := by
  simp [State.srcBytes]

@[simp] theorem dstBytes_length (s : State) (a n : Nat) : (s.dstBytes a n).length = n := by
  simp [State.dstBytes]

/-- A byte of SRC that is stored is the byte an access reads. -/
theorem srcByte_of_read {s : State} {a : Nat} {b : Byte} (h : s.src.read a = some b) :
    s.srcByte a = b := by simp [State.srcByte, h]

/-- A byte of DST that is stored is the byte an access reads. -/
theorem dstByte_of_read {s : State} {a : Nat} {b : Byte} (h : s.dst.read a = some b) :
    s.dstByte a = b := by simp [State.dstByte, h]

/-- The square of `absDiff` is the square of the difference. -/
theorem absDiff_sq (s p : Byte) : ((absDiff s p : Nat) : Int) ^ 2 = ((s.toNat : Int) - p.toNat) ^ 2 := by
  unfold absDiff
  rcases Nat.le_total s.toNat p.toNat with h | h
  · rw [Nat.sub_eq_zero_of_le h, Nat.zero_add, Nat.cast_sub h]; ring
  · rw [Nat.sub_eq_zero_of_le h, Nat.add_zero, Nat.cast_sub h]

theorem absDiff_le (s p : Byte) : absDiff s p ≤ 255 := by
  have := s.isLt
  have := p.isLt
  unfold absDiff
  omega

/-- A list made of pieces of one length. -/
theorem flatMap_length_of_const {α : Type} (f : α → List Byte) (k : Nat) (l : List α)
    (h : ∀ x ∈ l, (f x).length = k) : (l.flatMap f).length = k * l.length := by
  induction l with
  | nil => simp
  | cons x l ih =>
    rw [List.flatMap_cons, List.length_append, h x (by simp), ih fun y hy => h y (by simp [hy]),
      List.length_cons]
    ring

@[simp] theorem plnEncode_length (tie : ModeTie) (p : Nat → Byte) (w h : Nat) :
    (plnEncode tie p w h).length = 8 * (cdiv4 w * cdiv4 h) := by
  rw [plnEncode, flatMap_length_of_const _ 8 _ fun _ _ => by simp [plnEncodeBlock],
    List.length_range]

@[simp] theorem plnDecode_length (e : Nat → Byte) (w h : Nat) : (plnDecode e w h).length = w * h := by
  simp [plnDecode]

@[simp] theorem imgEncode_length (tie : ModeTie) (img : Nat → Byte) (w h : Dim) :
    (imgEncode tie img w h).length = 12 + 16 * blockCount w h := by
  rw [imgEncode, List.length_append, hdrBytes_length,
    flatMap_length_of_const _ 16 _ fun _ _ => by simp [imgEncodePair, plnEncodeBlock],
    List.length_range]

@[simp] theorem imgDecode_length (half : RoundHalf) (mode : BitVec 2) (t : Nat → Byte) (w h : Nat) :
    (imgDecode half mode t w h).length = 4 * w * h := by
  rw [imgDecode, flatMap_length_of_const _ 4 _ fun _ _ => by simp [imgDecodePixel],
    List.length_range, mul_assoc]

/-- The last check of a rule: what is completed is the stated completion, and it fits DST. -/
theorem output_guard_ok (s : State) (n : Nat) (c d : Completion)
    (h : (if s.outputTooLong n then Except.error ErrKind.capacity else Except.ok c) = .ok d) :
    c = d ∧ n ≤ s.params.dstCap.toNat := by
  split at h
  · cases h
  · rename_i hc
    simp only [State.outputTooLong, decide_eq_true_eq, not_lt] at hc
    exact ⟨Except.ok.inj h, hc⟩

/-- A check that passed: the rule went on to what follows it. -/
theorem guard_ok {α : Type} (p : Prop) [Decidable p] (e : ErrKind) (x : Except ErrKind α) (d : α)
    (h : (if p then Except.error e else x) = .ok d) : ¬ p ∧ x = .ok d := by
  split at h
  · cases h
  · exact ⟨by assumption, h⟩

/-- Whatever an operation's rule computes is as long as it says and fits DST (R32, R234). -/
theorem opBody_ok_spec (op : Op) (s : State) (c : Completion) (h : opBody op s = .ok c) :
    c.out.length = c.len ∧ c.len ≤ s.params.dstCap.toNat := by
  cases op with
  | hdrEnc => obtain ⟨rfl, hl⟩ := output_guard_ok s _ _ _ h; exact ⟨rfl, hl⟩
  | hdrDec =>
    have h := (guard_ok _ _ _ _ h).2
    split at h
    · cases h
    · cases h; exact ⟨rfl, Nat.zero_le _⟩
  | blkEnc =>
    obtain ⟨rfl, hl⟩ := output_guard_ok s _ _ _ (guard_ok _ _ _ _ (guard_ok _ _ _ _ h).2).2
    exact ⟨blkEncode_length _ _, hl⟩
  | blkDec =>
    obtain ⟨rfl, hl⟩ := output_guard_ok s _ _ _ (guard_ok _ _ _ _ (guard_ok _ _ _ _ h).2).2
    exact ⟨blkDecode_length _, hl⟩
  | plnEnc =>
    obtain ⟨rfl, hl⟩ := output_guard_ok s _ _ _
      (guard_ok _ _ _ _ (guard_ok _ _ _ _ (guard_ok _ _ _ _ h).2).2).2
    exact ⟨plnEncode_length _ _ _ _, hl⟩
  | plnDec =>
    obtain ⟨rfl, hl⟩ := output_guard_ok s _ _ _
      (guard_ok _ _ _ _ (guard_ok _ _ _ _ (guard_ok _ _ _ _ h).2).2).2
    exact ⟨plnDecode_length _ _ _, hl⟩
  | imgEnc =>
    obtain ⟨rfl, hl⟩ := output_guard_ok s _ _ _
      (guard_ok _ _ _ _ (guard_ok _ _ _ _ (guard_ok _ _ _ _ h).2).2).2
    exact ⟨imgEncode_length _ _ _ _, hl⟩
  | imgDec =>
    have h := (guard_ok _ _ _ _ h).2
    split at h
    · cases h
    · obtain ⟨rfl, hl⟩ := output_guard_ok s _ _ _ (guard_ok _ _ _ _ (guard_ok _ _ _ _ h).2).2
      exact ⟨imgDecode_length _ _ _ _ _, hl⟩
  | blue =>
    obtain ⟨rfl, hl⟩ := output_guard_ok s _ _ _ (guard_ok _ _ _ _ (guard_ok _ _ _ _ h).2).2
    exact ⟨rfl, hl⟩
  | illegal => cases h

/-- The output length of a completion is the value DST_LEN holds: no wrap (R13, R234). -/
theorem opBody_ok_len_toNat (op : Op) (s : State) (c : Completion) (h : opBody op s = .ok c) :
    (BitVec.ofNat 66 c.len).toNat = c.len := by
  have h1 := (opBody_ok_spec op s c h).2
  have h2 := s.params.dstCap.isLt
  rw [BitVec.toNat_ofNat]
  exact Nat.mod_eq_of_lt (by omega)

end Sys2Proof.Machine
end

