-- ==== Sys2Proof/Laws/PerInstr.lean ====
section
/-! SUPPORT. Statements for all instructions, made per instruction. `FormatLength` is spec/30_encoding.md R90 and
R103 for the encoder: a CMD row is one CMD value, a REGISTER row one access to a register numbered 0 to 6, and a
DATA row exactly as many bytes as its layout has. -/

namespace Sys2Proof.Laws.FormatLength

/-- A request has the size its format fixes (R90, R103). -/
def sized : Request → Prop
  | .cmd _ => True
  | .regRead n => n ≤ 6
  | .regWrite n _ => n ≤ 6
  | .put .header _ bs => bs.length = 12
  | .put .encodedBlock _ bs => bs.length = 8
  | .put .stream _ bs =>
    ∃ w h rem, Machine.hdrParse bs = some (w, h, rem) ∧ rem.length = 16 * Machine.blockCount w h
  | .put .pixel _ bs => bs.length = 4
  | .put .plain _ _ => False

def Statement (i : Instr) : Prop := i.wellFormed = true → sized (encode i)

theorem hdrEnc : Statement .hdrEnc := fun _ => trivial
theorem hdrDec : Statement .hdrDec := fun _ => trivial
theorem blkEnc : Statement .blkEnc := fun _ => trivial
theorem blkDec : Statement .blkDec := fun _ => trivial
theorem plnEnc : Statement .plnEnc := fun _ => trivial
theorem plnDec : Statement .plnDec := fun _ => trivial
theorem imgEnc : Statement .imgEnc := fun _ => trivial
theorem imgDec : Statement .imgDec := fun _ => trivial
theorem blue : Statement .blue := fun _ => trivial
theorem reserved0 : Statement .reserved0 := fun _ => trivial
theorem reserved10 : Statement .reserved10 := fun _ => trivial
theorem reserved11 : Statement .reserved11 := fun _ => trivial
theorem reserved12 : Statement .reserved12 := fun _ => trivial
theorem reserved13 : Statement .reserved13 := fun _ => trivial
theorem reserved14 : Statement .reserved14 := fun _ => trivial
theorem reserved15 : Statement .reserved15 := fun _ => trivial
theorem reservedUpper (op : BitVec 4) (zero : BitVec 28) : Statement (.reservedUpper op zero) :=
  fun _ => trivial
theorem header (a : Len) (w h : Dim) : Statement (.header a w h) := fun _ => rfl
theorem encodedBlock (a : Len) (b : EncodedBlock) : Statement (.encodedBlock a b) :=
  fun _ => Machine.pack_length b
theorem pixel (a : Len) (r g b al : Byte) : Statement (.pixel a r g b al) := fun _ => rfl

/-- The two primitives are inverse: `unbe32(be32(v)) = v` (R12, R93). -/
theorem unbe32_be32 (v : BitVec 32) :
    Machine.unbe32 (v.extractLsb' 24 8) (v.extractLsb' 16 8) (v.extractLsb' 8 8)
      (v.extractLsb' 0 8) = v := by
  apply BitVec.eq_of_toNat_eq
  have h := v.isLt
  simp only [Machine.unbe32, BitVec.toNat_ofNat, BitVec.extractLsb'_toNat, Nat.shiftRight_eq_div_pow]
  omega

theorem stream (a : Len) (w h : Dim) (body : List (EncodedBlock × EncodedBlock)) :
    Statement (.stream a w h body) := by
  intro hw
  simp only [Instr.wellFormed, Bool.and_eq_true, beq_iff_eq] at hw
  refine ⟨w, h, Machine.bodyBytes body, ?_, by simp [hw.1]⟩
  have hp : ∀ v u : Dim, ∀ bs : List Byte, Machine.hdrParse (Machine.hdrBytes v u ++ bs) =
      some (Machine.unbe32 (v.extractLsb' 24 8) (v.extractLsb' 16 8) (v.extractLsb' 8 8)
        (v.extractLsb' 0 8), Machine.unbe32 (u.extractLsb' 24 8) (u.extractLsb' 16 8)
        (u.extractLsb' 8 8) (u.extractLsb' 0 8), bs) := by
    intro v u bs
    simp [Machine.hdrBytes, Machine.magic, Machine.be32, Machine.hdrParse]
  rw [Machine.streamBytes, hp, unbe32_be32, unbe32_be32]

theorem regCmd (x : RegAccess) : Statement (.regCmd x) := by
  intro _; cases x <;> simp [encode, encodeReg, sized]
theorem regStatus (x : RegAccess) : Statement (.regStatus x) := by
  intro _; cases x <;> simp [encode, encodeReg, sized]
theorem regWidth (x : RegAccess) : Statement (.regWidth x) := by
  intro _; cases x <;> simp [encode, encodeReg, sized]
theorem regHeight (x : RegAccess) : Statement (.regHeight x) := by
  intro _; cases x <;> simp [encode, encodeReg, sized]
theorem regBluemode (x : RegAccess) : Statement (.regBluemode x) := by
  intro _; cases x <;> simp [encode, encodeReg, sized]
theorem regSrcLen (x : RegAccess) : Statement (.regSrcLen x) := by
  intro _; cases x <;> simp [encode, encodeReg, sized]
theorem regDstLen (x : RegAccess) : Statement (.regDstLen x) := by
  intro _; cases x <;> simp [encode, encodeReg, sized]

end Sys2Proof.Laws.FormatLength
end

