-- ==== Sys2Proof/Tests/Slice0.lean ====
section
/-! SUPPORT. The model's own tests. Expected results are the spec's vectors (spec/95_test_vectors.md, named in each
comment) or written out by hand from the cited rule; and witnesses that the hypotheses of the statements can be
met together, each clause at a boundary value. -/

namespace Sys2Proof.Tests

open Sys2Proof.Machine

/-! ### Helpers -/

/-- Bytes from numerals. -/
def bytes (l : List Nat) : List Byte := l.map (BitVec.ofNat 8)

/-- An idle state with operand registers and SRC filled from address 0, SRC_LEN to match. -/
def loaded (w h mode : Nat) (src : List Nat) : State :=
  { State.reset with
    width := BitVec.ofNat 32 w
    height := BitVec.ofNat 32 h
    blueMode := BitVec.ofNat 2 mode
    srcLen := BitVec.ofNat 66 src.length
    src := Memory.writeBytes [] 0 (bytes src) }

/-- The state with capacities of its own. -/
def capped (s : State) (srcCap dstCap : Nat) : State :=
  { s with params := { s.params with
      srcCap := BitVec.ofNat 66 srcCap, dstCap := BitVec.ofNat 66 dstCap } }

/-- A next state satisfies the check. -/
def nextIs (o : Host.Outcome State Fault Refusal) (check : State → Bool) : Bool :=
  match o with
  | .next t => check t
  | .fault _ => false
  | .refused _ => false

/-- STATUS, DST_LEN and the output bytes. -/
def ends (status : BitVec 32) (out : List Nat) (t : State) : Bool :=
  t.status == status && t.dstLen.toNat == out.length &&
    t.dst == (Memory.writeBytes [] 0 (bytes out))

/-- An error: STATUS, DST_LEN = 0, no DST byte, WIDTH and HEIGHT as given. -/
def errs (status : BitVec 32) (w h : Nat) (t : State) : Bool :=
  ends status [] t && t.width.toNat == w && t.height.toNat == h

/-! ### WellFormed refuses one ill-formed term per check -/

theorem test_illformed_reservedUpper : (Instr.reservedUpper 7 0).wellFormed = false := by decide

theorem test_illformed_encodedBlock :
    (Instr.encodedBlock 0 ⟨1, 2, List.replicate 15 0⟩).wellFormed = false := by decide

theorem test_illformed_stream_count :
    (Instr.stream 0 5 4 [(⟨0, 0, List.replicate 16 0⟩, ⟨0, 0, List.replicate 16 0⟩)]).wellFormed =
      false := by decide

theorem test_illformed_stream_block :
    (Instr.stream 0 4 4 [(⟨0, 0, List.replicate 16 0⟩, ⟨0, 0, List.replicate 17 0⟩)]).wellFormed =
      false := by decide

theorem test_wellformed_stream :
    (Instr.stream 0 4 4 [(⟨0, 0, List.replicate 16 0⟩, ⟨0, 0, List.replicate 16 0⟩)]).wellFormed =
      true := by decide

/-! ### Decoding: a word for every constructor, from R100, R101, R91, R94, R96, R97, R24 -/

theorem test_decode_cmd :
    [0x00000001#32, 0x00000002#32, 0x00000003#32, 0x00000004#32, 0x00000005#32, 0x00000006#32,
      0x00000007#32, 0x00000008#32, 0x00000009#32].map decodeCmd =
    [.hdrEnc, .hdrDec, .blkEnc, .blkDec, .plnEnc, .plnDec, .imgEnc, .imgDec, .blue] := by decide

theorem test_decode_reserved :
    [0x00000000#32, 0x0000000A#32, 0x0000000B#32, 0x0000000C#32, 0x0000000D#32, 0x0000000E#32,
      0x0000000F#32].map decodeCmd =
    [.reserved0, .reserved10, .reserved11, .reserved12, .reserved13, .reserved14, .reserved15] := by
  decide

/-- V-E13, V-E14: a 1 anywhere in bits 31:4. -/
theorem test_decode_reservedUpper :
    [0x00000017#32, 0x80000001#32, 0x00000010#32].map decodeCmd =
    [.reservedUpper 7 1, .reservedUpper 1 0x8000000, .reservedUpper 0 1] := by decide

/-- V-H3's bytes. -/
theorem test_decode_header :
    decodeTableWord 96 0x0D0C0B0A0403020120354342 = some (.header 0 0x01020304 0x0A0B0C0D) := by decide

theorem test_decode_header_magic :
    decodeTableWord 96 0x0D0C0B0A0403020100354342 = none := by decide

/-- V-K8. -/
theorem test_decode_encodedBlock :
    decode (.put .encodedBlock 12 (bytes [0x09, 0x08, 0xD1, 0x58, 0x1F, 0x77, 0x39, 0x05])) =
      .ok (.encodedBlock 12 ⟨9, 8, [1, 2, 3, 4, 5, 6, 7, 0, 7, 6, 5, 4, 3, 2, 1, 0]⟩) := by decide

/-- V-K3, V-K4: index 15 is the top of byte 7; index 2 straddles bytes 2 and 3. -/
theorem test_decode_encodedBlock_ends :
    (unpack (bytes [1, 2, 0, 0, 0, 0, 0, 0xE0])).idx = List.replicate 15 0 ++ [7] ∧
    (unpack (bytes [1, 2, 0x40, 1, 0, 0, 0, 0])).idx = [0, 0, 5] ++ List.replicate 13 0 := by decide

/-- V-S1's stream: a 4 by 4 image, one pair of degenerate sub-blocks. -/
theorem test_decode_stream :
    decode (.put .stream 0 (bytes ([0x42, 0x43, 0x35, 0x20, 0, 0, 0, 4, 0, 0, 0, 4] ++
      List.replicate 16 0))) =
    .ok (.stream 0 4 4 [(⟨0, 0, List.replicate 16 0⟩, ⟨0, 0, List.replicate 16 0⟩)]) := by decide

/-- V-E4: a trailing byte is not a STREAM. -/
theorem test_decode_stream_trailing :
    decode (.put .stream 0 (bytes ([0x42, 0x43, 0x35, 0x20, 0, 0, 0, 4, 0, 0, 0, 4] ++
      List.replicate 17 0))) = .error .wrongLength := by decide

theorem test_decode_pixel :
    decode (.put .pixel 4 (bytes [1, 2, 3, 4])) = .ok (.pixel 4 1 2 3 4) := by decide

theorem test_decode_registers :
    [0, 1, 2, 3, 4, 5, 6].map (fun n => (decode (.regRead n)).toOption) =
    [some (.regCmd .read), some (.regStatus .read), some (.regWidth .read), some (.regHeight .read),
      some (.regBluemode .read), some (.regSrcLen .read), some (.regDstLen .read)] := by decide

theorem test_decode_reserved_register : decode (.regWrite 7 1) = .error .reservedRegister := by decide

/-- Each constructor's encoding decodes back, on one term each. -/
theorem test_round_trip_data :
    [Instr.header 3 640 480, .encodedBlock 9 ⟨9, 8, [1, 2, 3, 4, 5, 6, 7, 0, 7, 6, 5, 4, 3, 2, 1, 0]⟩,
      .stream 0 1 1 [(⟨1, 2, List.replicate 16 5⟩, ⟨3, 4, List.replicate 16 6⟩)],
      .reservedUpper 9 0xABCDEF1].map (fun i => (decode (encode i)).toOption) =
    [some (.header 3 640 480),
      some (.encodedBlock 9 ⟨9, 8, [1, 2, 3, 4, 5, 6, 7, 0, 7, 6, 5, 4, 3, 2, 1, 0]⟩),
      some (.stream 0 1 1 [(⟨1, 2, List.replicate 16 5⟩, ⟨3, 4, List.replicate 16 6⟩)]),
      some (.reservedUpper 9 0xABCDEF1)] := by decide

/-! ### The operations -/

/-- V-H3. -/
theorem test_hdrEnc :
    nextIs (exec .hdrEnc (loaded 0x01020304 0x0A0B0C0D 0 []))
      (ends 0x02 [0x42, 0x43, 0x35, 0x20, 1, 2, 3, 4, 0x0A, 0x0B, 0x0C, 0x0D]) = true := by decide

/-- V-H7: the dimensions are returned, the remainder is not looked at. -/
theorem test_hdrDec :
    nextIs (exec .hdrDec (loaded 7 7 0
      [0x42, 0x43, 0x35, 0x20, 0, 0, 2, 0x80, 0, 0, 1, 0xE0, 0xDE, 0xAD, 0xBE, 0xEF]))
      (fun t => ends 0x02 [] t && t.width == 640 && t.height == 480) = true := by decide

/-- V-H9, V-H10: eleven bytes; the fourth byte 00. -/
theorem test_hdrDec_errors :
    nextIs (exec .hdrDec (loaded 7 9 0 [0x42, 0x43, 0x35, 0x20, 0, 0, 0, 4, 0, 0, 0]))
      (errs 0x16 7 9) = true ∧
    nextIs (exec .hdrDec (loaded 7 9 0 [0x42, 0x43, 0x35, 0, 0, 0, 0, 4, 0, 0, 0, 4]))
      (errs 0x16 7 9) = true := by decide

/-- V-B6: 6-step mode wins. -/
theorem test_blkEnc :
    nextIs (exec .blkEnc (loaded 0 0 0 [0, 2, 10, 10, 0, 0, 0, 0, 0, 0, 0, 0, 0, 0, 0, 0]))
      (ends 0x02 [0x00, 0x0A, 0x48, 0x0B, 0, 0, 0, 0]) = true := by decide +kernel

/-- V-B8, under both values of MODE_TIE. -/
theorem test_blkEnc_tie :
    blkEncode .eight (bytes [0, 10, 5, 5, 0, 0, 0, 0, 0, 0, 0, 0, 0, 0, 0, 0]) =
      bytes [0x0A, 0x00, 0xC7, 0xF6, 0xFF, 0xFF, 0xFF, 0xFF] ∧
    blkEncode .six (bytes [0, 10, 5, 5, 0, 0, 0, 0, 0, 0, 0, 0, 0, 0, 0, 0]) =
      bytes [0x00, 0x0A, 0xA8, 0x04, 0, 0, 0, 0] := by decide +kernel

/-- V-D4: anchors in a block with equal endpoints. -/
theorem test_blkDec :
    nextIs (exec .blkDec (loaded 0 0 0 [0x80, 0x80, 0xB1, 0xFD, 0x1F, 0xF5, 0x01, 0xF8]))
      (ends 0x02 [128, 0, 0, 0, 255, 255, 255, 128, 128, 0, 255, 128, 128, 128, 0, 255]) = true := by
  decide +kernel

/-- V-D1: 8-step mode; V-D8: a wrong length. -/
theorem test_blkDec_eight :
    nextIs (exec .blkDec (loaded 0 0 0 [0xFF, 0, 0x88, 0xC6, 0xFA, 0x88, 0xC6, 0xFA]))
      (ends 0x02 [255, 219, 182, 146, 109, 73, 36, 0, 255, 219, 182, 146, 109, 73, 36, 0]) = true ∧
    nextIs (exec .blkDec (loaded 3 4 0 [0xFF, 0, 0x88, 0xC6, 0xFA, 0x88, 0xC6]))
      (errs 0x16 3 4) = true := by decide +kernel

/-- V-P1. -/
theorem test_plnEnc :
    nextIs (exec .plnEnc (loaded 5 3 0 [0, 10, 20, 30, 40, 50, 60, 70, 80, 90, 100, 110, 120, 130, 140]))
      (ends 0x02 [0x82, 0, 0xB7, 0x4B, 0x6E, 0x4A, 0xA0, 0x04, 0x8C, 0x28, 0xFF, 0xBF, 0x6D, 0, 0, 0]) =
        true := by decide +kernel

/-- V-P4: a length that does not fit, and a zero dimension. -/
theorem test_plnEnc_errors :
    nextIs (exec .plnEnc (loaded 5 3 0 (List.replicate 16 0))) (errs 0x26 5 3) = true ∧
    nextIs (exec .plnEnc (loaded 0 3 0 [])) (errs 0x26 0 3) = true := by decide

/-- V-P1, decoding. -/
theorem test_plnDec :
    nextIs (exec .plnDec (loaded 5 3 0
      [0x82, 0, 0xB7, 0x4B, 0x6E, 0x4A, 0xA0, 0x04, 0x8C, 0x28, 0xFF, 0xBF, 0x6D, 0, 0, 0]))
      (ends 0x02 [0, 19, 19, 37, 40, 56, 56, 74, 74, 97, 93, 111, 111, 130, 140]) = true := by
  decide +kernel

/-- V-P4: 24 bytes are a whole number of blocks, and not the grid's. -/
theorem test_plnDec_error :
    nextIs (exec .plnDec (loaded 5 3 0 (List.replicate 24 0))) (errs 0x26 5 3) = true := by decide

/-- V-I1. -/
theorem test_imgEnc :
    nextIs (exec .imgEnc (loaded 2 2 0
      [0x80, 0x80, 9, 9, 0xFF, 0, 9, 9, 0, 0xFF, 9, 9, 0x40, 0xC0, 9, 9]))
      (ends 0x02 [0x42, 0x43, 0x35, 0x20, 0, 0, 0, 2, 0, 0, 0, 2, 0xFF, 0, 0x03, 0xF0, 0xB6, 0x6F,
        0xFB, 0xB6, 0xFF, 0, 0xFB, 0x0F, 0x49, 0x90, 0x04, 0x49]) = true := by decide +kernel

/-- V-E9, V-E10, V-E15: a zero dimension, a length that does not fit, a small DST. -/
theorem test_imgEnc_errors :
    nextIs (exec .imgEnc (loaded 0 4 0 [])) (errs 0x26 0 4) = true ∧
    nextIs (exec .imgEnc (loaded 2 2 0 (List.replicate 15 0))) (errs 0x26 2 2) = true ∧
    nextIs (exec .imgEnc (capped (loaded 4 4 0 (List.replicate 64 0)) 100 16)) (errs 0x46 4 4) =
      true := by decide

/-- V-I2, ComputeNormal. -/
theorem test_imgDec :
    nextIs (exec .imgDec (loaded 0 0 3
      [0x42, 0x43, 0x35, 0x20, 0, 0, 0, 2, 0, 0, 0, 2, 0xFF, 0, 0x03, 0xF0, 0xB6, 0x6F, 0xFB, 0xB6,
        0xFF, 0, 0xFB, 0x0F, 0x49, 0x90, 0x04, 0x49]))
      (fun t => ends 0x02 [0x92, 0x92, 0xFC, 0xFF, 0xFF, 0, 0x80, 0xFF, 0, 0xFF, 0x80, 0xFF, 0x49, 0xB6,
        0xE5, 0xFF] t && t.width == 2 && t.height == 2) = true := by decide +kernel

/-- V-E2, V-E5, V-E8: wrong magic; an extra block; a zero dimension before the body length. -/
theorem test_imgDec_errors :
    nextIs (exec .imgDec (loaded 7 7 0 ([0x42, 0x43, 0x34, 0x20] ++ List.replicate 24 0)))
      (errs 0x16 7 7) = true ∧
    nextIs (exec .imgDec (loaded 7 7 0
      ([0x42, 0x43, 0x35, 0x20, 0, 0, 0, 4, 0, 0, 0, 4] ++ List.replicate 32 0))) (errs 0x16 7 7) = true ∧
    nextIs (exec .imgDec (loaded 7 7 0
      ([0x42, 0x43, 0x35, 0x20, 0, 0, 0, 0, 0, 0, 0, 4] ++ List.replicate 16 0))) (errs 0x26 7 7) =
        true := by decide

/-- V-U6, V-U12. -/
theorem test_blue :
    nextIs (exec .blue (loaded 0 0 3 [64, 64])) (ends 0x02 [218]) = true ∧
    nextIs (exec .blue (loaded 0 0 2 [200, 100])) (ends 0x02 [200]) = true := by decide +kernel

/-- V-U3, V-U9, V-U2 and ROUND_HALF = DOWN (R224). -/
theorem test_blue_normal :
    blue .up 3 0 0 = 128 ∧ blue .down 3 0 0 = 127 ∧ blue .up 3 38 38 = 143 ∧
      blue .up 3 127 127 = 255 := by decide +kernel

/-- V-E11 to V-E14: every reserved value. -/
theorem test_reserved :
    [Instr.reserved0, .reserved10, .reserved11, .reserved12, .reserved13, .reserved14, .reserved15,
      .reservedUpper 7 1].all (fun i => nextIs (exec i (loaded 3 4 0 [1])) (errs 0x36 3 4)) = true := by
  decide

/-! ### DATA and REGISTER rows -/

/-- R97 at R61's address of pixel (1, 0). -/
theorem test_pixel :
    nextIs (exec (.pixel 4 1 2 3 4) State.reset) (fun t => t.src == [(4, 1), (5, 2), (6, 3), (7, 4)]) =
      true := by decide

/-- R91 after R94: each format's bytes stand where they are put. -/
theorem test_header_encodedBlock :
    nextIs (exec (.header 0 4 4) State.reset) (fun t =>
      nextIs (exec (.encodedBlock 12 ⟨1, 2, [7] ++ List.replicate 15 0⟩) t) (fun u =>
        u.srcBytes 0 16 == bytes [0x42, 0x43, 0x35, 0x20, 0, 0, 0, 4, 0, 0, 0, 4, 1, 2, 7, 0])) =
      true := by decide

/-- R96 (V-S1), and U6 while BUSY = 1. -/
theorem test_stream :
    nextIs (exec (.stream 0 4 4 [(⟨0, 0, List.replicate 16 0⟩, ⟨0, 0, List.replicate 16 0⟩)]) State.reset)
      (fun t => t.src == Memory.writeBytes [] 0 (bytes ([0x42, 0x43, 0x35, 0x20, 0, 0, 0, 4, 0, 0, 0, 4] ++
        List.replicate 16 0))) = true := by decide

/-- R24, R28, R29, R31: writes keep the implemented bits; STATUS and DST_LEN ignore them. -/
theorem test_register_writes :
    nextIs (exec (.regWidth (.write 0x100000005)) State.reset) (fun t => t.width == 5) = true ∧
    nextIs (exec (.regHeight (.write 6)) State.reset) (fun t => t.height == 6) = true ∧
    nextIs (exec (.regBluemode (.write 7)) State.reset) (fun t => t.blueMode == 3) = true ∧
    nextIs (exec (.regSrcLen (.write (2 ^ 66 + 9))) State.reset) (fun t => t.srcLen == 9) = true ∧
    nextIs (exec (.regStatus (.write 1)) State.reset) (fun t => t == State.reset) = true ∧
    nextIs (exec (.regDstLen (.write 1)) State.reset) (fun t => t == State.reset) = true := by decide

/-- R24: reads. -/
theorem test_register_reads :
    nextIs (exec (.regCmd .read) (loaded 5 6 3 [1])) (fun t => t.hostIn == .value 0) = true ∧
    nextIs (exec (.regWidth .read) (loaded 5 6 3 [1])) (fun t => t.hostIn == .value 5) = true ∧
    nextIs (exec (.regSrcLen .read) (loaded 5 6 3 [1])) (fun t => t.hostIn == .value 1) = true := by decide

/-- R25, R36, R37: a CMD write is the start step, and then the core is deaf to writes. -/
theorem test_regCmd_starts :
    nextIs (exec (.regCmd (.write 9)) (loaded 5 6 3 [64, 64])) (fun t =>
      t.status == 1 && t.seq == some ⟨.blue, .check, 0, 0, 0⟩ &&
        nextIs (exec (.regWidth (.write 1)) t) (fun u => u == t)) = true := by decide

/-- R266: an operation leaves the buffers the CORE's until the STATUS read that returns DONE = 1; a WIDTH read does not
give them back; a decode's window covers WIDTH and HEIGHT until the HOST writes them. -/
theorem test_window :
    nextIs (exec .blue (loaded 0 0 1 [1, 2])) (fun t => t.owned &&
      nextIs (exec (.regWidth .read) t) (fun u => u.owned) &&
      nextIs (exec (.regStatus .read) t) (fun u => !u.owned && u.hostIn == .value 2)) = true ∧
    nextIs (exec .hdrDec (loaded 0 0 0 [0x42, 0x43, 0x35, 0x20, 0, 0, 0, 5, 0, 0, 0, 6])) (fun t =>
      t.window == some ⟨true, true⟩ &&
        nextIs (exec (.regWidth (.write 9)) t) (fun u => u.window == some ⟨false, true⟩ && u.width == 9)) =
      true := by decide

/-- R266, U6: a datum put in SRC inside the window is stored, and the output keeps its length and nothing else; after the
STATUS read a HOST read of DST returns what is stored. -/
theorem test_window_accesses :
    nextIs (exec .blue (loaded 0 0 1 [1, 2])) (fun t =>
      nextIs (exec (.pixel 4 1 2 3 4) t) (fun u => u.srcBytes 4 4 == bytes [1, 2, 3, 4] &&
        u.dstLen == 1 && u.dst.map Prod.fst == [0] && u.freeCtr == 3) &&
      nextIs (getDst 0 1 t) (fun u => u.freeCtr == 1) &&
      nextIs (exec (.regStatus .read) t) (fun u =>
        nextIs (getDst 0 1 u) (fun v => v.hostIn == .bytes [255#8]))) = true := by decide

/-! ### Steps -/

/-- R30, R36, R38: BLUE written to CMD runs check, one visit and completion, and ends where the atomic BLUE does. -/
theorem test_sequencer_blue :
    nextIs (Host.Core.run Sys2Proof.core 4
      { loaded 0 0 3 [64, 64] with script := [.request (.regWrite 0 9)] })
      (ends 0x02 [218]) = true := by decide +kernel

/-- The host's probe: an opcode-table word is the next step's instruction. -/
theorem test_withFetchWord :
    nextIs (step (State.reset.withFetchWord 32 1)) (ends 0x02 [0x42, 0x43, 0x35, 0x20, 0, 0, 0, 0, 0, 0, 0, 0]) =
      true := by decide

/-- R260, and R24's reserved numbers. -/
theorem test_reset_and_reserved_register :
    nextIs (step { loaded 5 6 3 [1] with script := [.reset] }) (fun t => t == { State.reset with epoch := 1 }) =
      true ∧
    nextIs (step { State.reset with script := [.request (.regRead 9)] }) (fun t => t.hostIn == .value 0) =
      true := by decide

/-! ### Witnesses: the hypotheses of the statements can be met, each clause at a boundary -/

/-- A state BUSY with the operation of the given code. -/
def started (s : State) (c : Nat) : State := startOperation (opOfCmd (BitVec.ofNat 32 c)) s

/-- A header of the given dimensions (one byte each) and `k` more bytes. -/
def header (w h k : Nat) : List Nat :=
  [0x42, 0x43, 0x35, 0x20, 0, 0, 0, w, 0, 0, 0, h] ++ List.replicate k 0

theorem witness_ResetInputLeavesResetState :
    ({ started (loaded 5 6 3 [1]) 9 with script := [.reset] } : State).script = .reset :: [] := rfl

theorem witness_OperationsStraightAfterReset : 12 ≤ (capped State.reset 0 12).params.dstCap.toNat := by
  decide

theorem witness_IdleCoreDoesNothing :
    State.reset.seq = none ∧ State.reset.script = [] ∧
      ({ State.reset with script := [.idle] } : State).script = .idle :: [] := ⟨rfl, rfl, rfl⟩

theorem witness_CmdValueSelectsOperation :
    (0#32).toNat = 0 ∧ 10 ≤ (10#32).toNat ∧ 10 ≤ (0xFFFFFFFF#32).toNat := by decide

theorem witness_DecodeOfEncode :
    (Instr.reservedUpper 15 1).wellFormed = true ∧
      (Instr.encodedBlock 0 ⟨255, 0, List.replicate 16 7⟩).wellFormed = true := by decide

theorem witness_EncodeOfDecode : decode (.cmd 0x10#32) = .ok (.reservedUpper 0 1) := by decide

theorem witness_StepRunsDecodedInstruction :
    ({ State.reset with script := [.request (.cmd 1#32)] } : State).script = .request (.cmd 1#32) :: [] ∧
      decode (.cmd 1#32) = .ok .hdrEnc ∧ decodeTableWord 32 1 = some .hdrEnc := by decide

theorem witness_ReservedRegisterNumbers :
    7 ≤ 7 ∧ ({ State.reset with script := [.request (.regRead 7)] } : State).script =
      .request (.regRead 7) :: [] ∧
    ({ State.reset with script := [.request (.regWrite 7 1)] } : State).script =
      .request (.regWrite 7 1) :: [] := by decide

theorem witness_IndexBitPositions :
    (⟨1, 2, List.replicate 15 0 ++ [7]⟩ : EncodedBlock).wellFormed = true ∧ 15 < 16 ∧ 2 < 3 ∧
      (bytes [1, 2, 0, 0, 0, 0, 0, 0xE0]).length = 8 := by decide

theorem witness_PackUnpackInverse :
    (⟨1, 2, List.replicate 16 7⟩ : EncodedBlock).wellFormed = true ∧
      (bytes [0, 0, 0, 0, 0, 0, 0, 255]).length = 8 := by decide

theorem witness_EightStepPalette : 6 < 8 ∧ (0#8 : Byte) < 255#8 ∧ 6 < 7 ∧ 7 < 8 := by decide

theorem witness_SixStepPalette : 4 < 6 ∧ (0#8 : Byte) ≤ 255#8 ∧ 4 < 5 ∧ (7#8 : Byte) = 7#8 ∧ 5 < 6 := by
  decide

theorem witness_PaletteModeByEndpointOrder :
    (0#8 : Byte).toNat < (1#8 : Byte).toNat ∧ (1#8 : Byte).toNat ≤ (1#8 : Byte).toNat := by decide

theorem witness_NearestIsLeastBest :
    (pal8 10 0).length = 8 ∧ 7 < 8 ∧ 2 < (nearest (pal8 10 0) 5).toNat := by decide +kernel

theorem witness_BlockDecodeLooksUpPalette : 15 < 16 := by decide

/-- R148's sum, as the statements write it. -/
def sumOfSquares (pal : List Byte) (ss : List Byte) : Int :=
  ((List.range 16).map fun k =>
    (((ss.getD k 0#8).toNat : Int) - (pal.getD (nearest pal (ss.getD k 0#8)).toNat 0#8).toNat) ^ 2).sum

/-- V-B11: `sse8 / sse6` = 259 / 625. -/
theorem witness_CandidateSquaredError :
    (bytes [100, 200, 150, 125, 175, 110, 190, 160, 140, 130, 120, 180, 170, 105, 195, 155]).length = 16 ∧
    (candidate 200 100
      (bytes [100, 200, 150, 125, 175, 110, 190, 160, 140, 130, 120, 180, 170, 105, 195, 155])).sse = 259 ∧
    (candidate 100 200
      (bytes [100, 200, 150, 125, 175, 110, 190, 160, 140, 130, 120, 180, 170, 105, 195, 155])).sse = 625 := by
  decide +kernel

/-- A uniform block; V-B8 (tie, either value of MODE_TIE); V-B6 (6-step lower); V-B15 (8-step lower). The sums are the
vectors' `sse8 / sse6`. -/
theorem witness_EncoderTakesLowerError :
    (List.replicate 16 (7#8 : Byte)).length = 16 ∧ (7#8 : Byte) ∈ List.replicate 16 (7#8 : Byte) ∧
    (∀ s ∈ List.replicate 16 (7#8 : Byte), 7#8 ≤ s ∧ s ≤ 7#8) ∧
    (∀ s ∈ bytes [0, 10, 5, 5, 0, 0, 0, 0, 0, 0, 0, 0, 0, 0, 0, 0], 0#8 ≤ s ∧ s ≤ 10#8) ∧
    sumOfSquares (pal8 10 0) (bytes [0, 10, 5, 5, 0, 0, 0, 0, 0, 0, 0, 0, 0, 0, 0, 0]) = 2 ∧
    sumOfSquares (pal6 0 10) (bytes [0, 10, 5, 5, 0, 0, 0, 0, 0, 0, 0, 0, 0, 0, 0, 0]) = 2 ∧
    sumOfSquares (pal8 10 0) (bytes [0, 2, 10, 10, 0, 0, 0, 0, 0, 0, 0, 0, 0, 0, 0, 0]) = 1 ∧
    sumOfSquares (pal6 0 10) (bytes [0, 2, 10, 10, 0, 0, 0, 0, 0, 0, 0, 0, 0, 0, 0, 0]) = 0 ∧
    sumOfSquares (pal8 35 0) (bytes [0, 35, 5, 10, 15, 20, 25, 30, 0, 35, 5, 30, 0, 0, 35, 35]) = 0 ∧
    sumOfSquares (pal6 0 35) (bytes [0, 35, 5, 10, 15, 20, 25, 30, 0, 35, 5, 30, 0, 0, 35, 35]) = 36 := by
  decide +kernel

/-- A 6-step block (V-B6) and a block of equal endpoints. -/
theorem witness_EncoderNeverUsesAnchors :
    (bytes [0, 2, 10, 10, 0, 0, 0, 0, 0, 0, 0, 0, 0, 0, 0, 0]).length = 16 ∧
    (encodeSamples .eight (bytes [0, 2, 10, 10, 0, 0, 0, 0, 0, 0, 0, 0, 0, 0, 0, 0])).e0 ≤
      (encodeSamples .eight (bytes [0, 2, 10, 10, 0, 0, 0, 0, 0, 0, 0, 0, 0, 0, 0, 0])).e1 ∧
    (encodeSamples .eight (List.replicate 16 7)).e0 = (encodeSamples .eight (List.replicate 16 7)).e1 := by
  decide +kernel

/-- V-B8 (8-step) and V-B6 (6-step), at the last sample. -/
theorem witness_QuantisationErrorBound :
    15 < 16 ∧ (bytes [0, 10, 5, 5, 0, 0, 0, 0, 0, 0, 0, 0, 0, 0, 0, 0]).length = 16 ∧
    (encodeSamples .eight (bytes [0, 10, 5, 5, 0, 0, 0, 0, 0, 0, 0, 0, 0, 0, 0, 0])).e1 <
      (encodeSamples .eight (bytes [0, 10, 5, 5, 0, 0, 0, 0, 0, 0, 0, 0, 0, 0, 0, 0])).e0 ∧
    (encodeSamples .eight (bytes [0, 2, 10, 10, 0, 0, 0, 0, 0, 0, 0, 0, 0, 0, 0, 0])).e0 ≤
      (encodeSamples .eight (bytes [0, 2, 10, 10, 0, 0, 0, 0, 0, 0, 0, 0, 0, 0, 0, 0])).e1 := by
  decide +kernel

theorem witness_GatherClampsToEdges : 0 < 1 ∧ 0 < 3 ∧ 3 < 4 ∧ 0 < 4 := by decide

theorem witness_PlaneRoundTripBound : 4 < 5 ∧ 2 < 3 := by decide

/-- V-U6 (N > 0, isqrt 181) and V-U5 (N = -1). -/
theorem witness_ComputeNormalValue :
    (65025 - (-127) * (-127) - (-127) * (-127) : Int) = 32767 ∧ (0 : Int) < 32767 ∧
    (181 : Int) * 181 ≤ 32767 ∧ (32767 : Int) < (181 + 1) * (181 + 1) ∧
    (2 * ((64#8 : Byte).toNat : Int) - 255) = -127 ∧
    (65025 - (-255) * (-255) - 1 * 1 : Int) < 0 ∧ (2 * ((0#8 : Byte).toNat : Int) - 255) = -255 ∧
    (2 * ((128#8 : Byte).toNat : Int) - 255) = 1 := by decide +kernel

theorem witness_HdrEncRule :
    (capped State.reset 0 11).busy = false ∧ (capped State.reset 0 11).dst.wf = true ∧
    (capped State.reset 0 11).params.dstCap.toNat < 12 ∧
    (capped State.reset 0 12).busy = false ∧ 12 ≤ (capped State.reset 0 12).params.dstCap.toNat := by decide

/-- SRC_LEN over SRC_CAP; 11 bytes; no magic; a header. -/
theorem witness_HdrDecRule :
    (loaded 0 0 0 [1]).busy = false ∧ (loaded 0 0 0 [1]).dst.wf = true ∧
    (capped (loaded 0 0 0 [1]) 0 0).params.srcCap.toNat < (capped (loaded 0 0 0 [1]) 0 0).srcLen.toNat ∧
    (loaded 0 0 0 [1]).srcLen.toNat ≤ (loaded 0 0 0 [1]).params.srcCap.toNat ∧
    (loaded 0 0 0 (List.replicate 11 0)).srcLen.toNat < 12 ∧
    12 ≤ (loaded 0 0 0 (List.replicate 12 0)).srcLen.toNat ∧
    ¬ (loaded 0 0 0 (List.replicate 12 0)).srcByte 0 = 0x42#8 ∧
    12 ≤ (loaded 0 0 0 (header 4 4 0)).srcLen.toNat := by decide

theorem witness_magicInSrc : (loaded 0 0 0 (header 4 4 0)).magicInSrc := by
  unfold State.magicInSrc; decide

/-- Sixteen bytes with room for 8 and for 7; seventeen bytes. -/
theorem witness_BlkEncRule :
    (capped (loaded 0 0 0 (List.replicate 16 0)) 16 8).srcLen.toNat = 16 ∧
    (capped (loaded 0 0 0 (List.replicate 16 0)) 16 8).srcLen.toNat ≤
      (capped (loaded 0 0 0 (List.replicate 16 0)) 16 8).params.srcCap.toNat ∧
    8 ≤ (capped (loaded 0 0 0 (List.replicate 16 0)) 16 8).params.dstCap.toNat ∧
    (capped (loaded 0 0 0 (List.replicate 16 0)) 16 7).params.dstCap.toNat < 8 ∧
    (loaded 0 0 0 (List.replicate 17 0)).srcLen.toNat ≠ 16 ∧
    (capped (loaded 0 0 0 (List.replicate 16 0)) 15 8).params.srcCap.toNat <
      (capped (loaded 0 0 0 (List.replicate 16 0)) 15 8).srcLen.toNat ∧
    (loaded 0 0 0 (List.replicate 16 0)).busy = false := by decide

theorem witness_BlkDecRule :
    (capped (loaded 0 0 0 (List.replicate 8 0)) 8 16).srcLen.toNat = 8 ∧
    (capped (loaded 0 0 0 (List.replicate 8 0)) 8 16).srcLen.toNat ≤
      (capped (loaded 0 0 0 (List.replicate 8 0)) 8 16).params.srcCap.toNat ∧
    16 ≤ (capped (loaded 0 0 0 (List.replicate 8 0)) 8 16).params.dstCap.toNat ∧
    (capped (loaded 0 0 0 (List.replicate 8 0)) 8 15).params.dstCap.toNat < 16 ∧
    (loaded 0 0 0 (List.replicate 9 0)).srcLen.toNat ≠ 8 ∧
    (capped (loaded 0 0 0 (List.replicate 8 0)) 7 16).params.srcCap.toNat <
      (capped (loaded 0 0 0 (List.replicate 8 0)) 7 16).srcLen.toNat := by decide

/-- A 5 by 1 plane: two blocks, 16 bytes. -/
theorem witness_PlnEncRule :
    5 = (loaded 5 1 0 (List.replicate 5 0)).width.toNat ∧
    1 = (loaded 5 1 0 (List.replicate 5 0)).height.toNat ∧ 2 = (5 + 3) / 4 ∧ 2 = 2 * ((1 + 3) / 4) ∧
    (loaded 5 1 0 (List.replicate 5 0)).srcLen.toNat = 5 * 1 ∧
    8 * 2 ≤ (capped (loaded 5 1 0 (List.replicate 5 0)) 5 16).params.dstCap.toNat ∧
    (capped (loaded 5 1 0 (List.replicate 5 0)) 5 15).params.dstCap.toNat < 8 * 2 ∧
    (loaded 5 1 0 (List.replicate 6 0)).srcLen.toNat ≠ 5 * 1 ∧
    (capped (loaded 5 1 0 (List.replicate 5 0)) 4 16).params.srcCap.toNat <
      (loaded 5 1 0 (List.replicate 5 0)).srcLen.toNat ∧
    0 = (loaded 0 1 0 []).width.toNat ∧ 0 = (loaded 1 0 0 []).height.toNat := by decide

theorem witness_PlnDecRule :
    5 = (loaded 5 1 0 (List.replicate 16 0)).width.toNat ∧
    1 = (loaded 5 1 0 (List.replicate 16 0)).height.toNat ∧
    (loaded 5 1 0 (List.replicate 16 0)).srcLen.toNat = 8 * 2 ∧
    5 * 1 ≤ (capped (loaded 5 1 0 (List.replicate 16 0)) 16 5).params.dstCap.toNat ∧
    (capped (loaded 5 1 0 (List.replicate 16 0)) 16 4).params.dstCap.toNat < 5 * 1 ∧
    (loaded 5 1 0 (List.replicate 24 0)).srcLen.toNat ≠ 8 * 2 ∧
    (capped (loaded 5 1 0 (List.replicate 16 0)) 15 5).params.srcCap.toNat <
      (loaded 5 1 0 (List.replicate 16 0)).srcLen.toNat ∧
    0 = (loaded 0 1 0 []).width.toNat ∧ 0 = (loaded 1 0 0 []).height.toNat := by decide

theorem witness_ImgEncRule :
    5 = (loaded 5 1 0 (List.replicate 20 0)).width.toNat ∧
    1 = (loaded 5 1 0 (List.replicate 20 0)).height.toNat ∧
    (loaded 5 1 0 (List.replicate 20 0)).srcLen.toNat = 4 * 5 * 1 ∧
    12 + 16 * 2 ≤ (capped (loaded 5 1 0 (List.replicate 20 0)) 20 44).params.dstCap.toNat ∧
    (capped (loaded 5 1 0 (List.replicate 20 0)) 20 43).params.dstCap.toNat < 12 + 16 * 2 ∧
    (loaded 5 1 0 (List.replicate 19 0)).srcLen.toNat ≠ 4 * 5 * 1 ∧
    (capped (loaded 5 1 0 (List.replicate 20 0)) 19 44).params.srcCap.toNat <
      (loaded 5 1 0 (List.replicate 20 0)).srcLen.toNat ∧
    0 = (loaded 0 1 0 []).width.toNat ∧ 0 = (loaded 1 0 0 []).height.toNat := by decide

/-- Streams of 5 by 1: 44 bytes; 43 bytes; a zero width; too small a DST. -/
theorem witness_ImgDecRule :
    5 = ((loaded 0 0 0 (header 5 1 32)).dimInSrc 4).toNat ∧
    1 = ((loaded 0 0 0 (header 5 1 32)).dimInSrc 8).toNat ∧
    (loaded 0 0 0 (header 5 1 32)).srcLen.toNat = 12 + 16 * 2 ∧
    4 * 5 * 1 ≤ (capped (loaded 0 0 0 (header 5 1 32)) 44 20).params.dstCap.toNat ∧
    (capped (loaded 0 0 0 (header 5 1 32)) 44 19).params.dstCap.toNat < 4 * 5 * 1 ∧
    (loaded 0 0 0 (header 5 1 31)).srcLen.toNat ≠ 12 + 16 * 2 ∧
    0 = ((loaded 0 0 0 (header 0 1 0)).dimInSrc 4).toNat ∧
    (loaded 0 0 0 (header 5 1 32)).busy = false ∧ (loaded 0 0 0 (header 5 1 32)).dst.wf = true := by
  decide +kernel

theorem witness_ImgDecRule_magic :
    (loaded 0 0 0 (header 5 1 32)).magicInSrc ∧ (loaded 0 0 0 (header 0 1 0)).magicInSrc := by
  unfold State.magicInSrc; decide

theorem witness_BlueRule :
    (loaded 0 0 0 [1, 2]).busy = false ∧ (loaded 0 0 0 [1, 2]).dst.wf = true ∧
    (loaded 0 0 0 [1, 2]).srcLen.toNat = 2 ∧
    1 ≤ (capped (loaded 0 0 0 [1, 2]) 2 1).params.dstCap.toNat ∧
    (capped (loaded 0 0 0 [1, 2]) 2 0).params.dstCap.toNat < 1 ∧
    (loaded 0 0 0 [1, 2, 3]).srcLen.toNat ≠ 2 ∧
    (capped (loaded 0 0 0 [1, 2]) 1 1).params.srcCap.toNat < (loaded 0 0 0 [1, 2]).srcLen.toNat ∧
    (loaded 0 0 0 [1, 2]).blueMode = 0#2 ∧ (loaded 0 0 1 [1, 2]).blueMode = 1#2 ∧
    (loaded 0 0 2 [1, 2]).blueMode = 2#2 ∧ (loaded 0 0 3 [1, 2]).blueMode = 3#2 := by decide

theorem witness_ReservedCommandsAreIllegal :
    State.reset.busy = false ∧ (0#32).toNat = 0 ∧ 10 ≤ (10#32).toNat := by decide

/-- A successful BLUE, and an error of it. -/
theorem witness_OperationFrame :
    Instr.blue.operation = some .blue ∧ (loaded 0 0 1 [1, 2]).busy = false ∧
    (loaded 0 0 1 [1, 2]).dst.wf = true ∧ Op.blue ≠ .hdrDec ∧ Op.blue ≠ .imgDec ∧
    nextIs (exec .blue (loaded 0 0 1 [1, 2])) (fun t => t.dstLen.toNat == 1) = true ∧
    nextIs (exec .blue (loaded 0 0 1 [1])) (fun t => statusErrBit t.status) = true := by decide

theorem witness_OperationsEndReady :
    Instr.blue.operation = some .blue ∧ State.reset.busy = false ∧ statusBusyBit 0x46#32 = false := by decide

/-- Two states that differ in STATUS, DST_LEN, DST and SRC beyond SRC_LEN. -/
theorem witness_EqualInputsEqualOutputs :
    (loaded 0 0 2 [1, 2]).busy = false ∧
    ({ loaded 0 0 2 [1, 2] with status := 0x16#32, dst := [(5, 5)] } : State).busy = false ∧
    ({ loaded 0 0 2 [1, 2] with status := 0x16#32, dst := [(5, 5)] } : State).dst.wf = true ∧
    (∀ a, a < 2 → (loaded 0 0 2 [1, 2]).srcByte a =
      ({ loaded 0 0 2 [1, 2, 9] with srcLen := 2 } : State).srcByte a) ∧
    nextIs (exec .blue (loaded 0 0 2 [1, 2])) (fun t => t.dstLen.toNat == 1) = true := by decide

/-- Two images of one pixel that differ in B and A. -/
theorem witness_EncodeIgnoresBlueAndAlpha :
    (loaded 1 1 0 [7, 9, 1, 2]).busy = false ∧ (loaded 1 1 0 [7, 9, 1, 2]).dst.wf = true ∧
    loaded 1 1 0 [7, 9, 3, 4] =
      { loaded 1 1 0 [7, 9, 1, 2] with src := (loaded 1 1 0 [7, 9, 3, 4]).src } ∧
    (∀ p c, c < 2 → (loaded 1 1 0 [7, 9, 1, 2]).srcByte (4 * p + c) =
      (loaded 1 1 0 [7, 9, 3, 4]).srcByte (4 * p + c)) := by
  refine ⟨by decide, by decide, by decide, fun p c hc => ?_⟩
  have h : (loaded 1 1 0 [7, 9, 1, 2]).src = [(0, 7), (1, 9), (2, 1), (3, 2)] := by decide
  have h' : (loaded 1 1 0 [7, 9, 3, 4]).src = [(0, 7), (1, 9), (2, 3), (3, 4)] := by decide
  have h2 : ¬ 2 = 4 * p + c := by omega
  have h3 : ¬ 3 = 4 * p + c := by omega
  simp only [State.srcByte, h, h', Memory.read_cons, Memory.read_nil, h2, h3, if_false]
  rfl

theorem witness_RegisterWrites : (loaded 5 6 3 [1]).busy = false := by decide

theorem witness_CmdWriteIsStartStep : State.reset.busy = false := by decide

theorem witness_BusyIgnoresRegisterWrites :
    (started (loaded 5 6 3 [1]) 9).busy = true ∧ Instr.blue.operation = some .blue := by decide

/-- Idle, with the window of R266 open: a decode has ended and the HOST has not read STATUS. -/
def ended : State :=
  { loaded 5 6 0 [1] with status := 0x02#32, window := some ⟨true, true⟩, dstLen := 2#66, dst := [(0, 8#8), (1, 9#8)] }

/-- Each DATA row at the last addresses of SRC it fits, and the window open in an idle state. -/
theorem witness_DataRowsPlaceBytesInSrc :
    (capped State.reset 28 0).busy = false ∧ (capped State.reset 28 0).src.wf = true ∧
    (capped State.reset 28 0).window = none ∧ ended.busy = false ∧ ended.window ≠ none ∧ ended.src.wf = true ∧
    (16#66 : Len).toNat + (hdrBytes 4 4).length ≤ (capped State.reset 28 0).params.srcCap.toNat ∧
    (20#66 : Len).toNat + (pack ⟨1, 2, List.replicate 16 0⟩).length ≤
      (capped State.reset 28 0).params.srcCap.toNat ∧
    (0#66 : Len).toNat + (streamBytes 4 4
      [(⟨0, 0, List.replicate 16 0⟩, ⟨0, 0, List.replicate 16 0⟩)]).length ≤
      (capped State.reset 28 0).params.srcCap.toNat ∧
    (24#66 : Len).toNat + [1#8, 2#8, 3#8, 4#8].length ≤ (capped State.reset 28 0).params.srcCap.toNat := by
  decide

theorem witness_DataRowsStop :
    (Instr.pixel 25 1 2 3 4).datum = some (25, [1, 2, 3, 4]) ∧
    (started (loaded 5 6 3 [1]) 9).busy = true ∧
    (capped State.reset 28 0).params.srcCap.toNat < (25#66 : Len).toNat + [1#8, 2#8, 3#8, 4#8].length := by
  decide

theorem witness_HostBufferReads :
    ({ capped State.reset 8 8 with script := [.getDst 4 4] } : State).script = .getDst 4 4 :: [] ∧
    ({ capped State.reset 8 8 with script := [.getSrc 4 4] } : State).script = .getSrc 4 4 :: [] ∧
    (4#66 : Len).toNat + 4 ≤ (capped State.reset 8 8).params.dstCap.toNat ∧
    (started (capped State.reset 8 8) 9).busy = true ∧ (capped State.reset 8 8).busy = false ∧
    (capped State.reset 8 8).window = none ∧ ended.busy = false ∧ ended.window ≠ none ∧
    Memory.read [(5, 7#8)] ((4#66 : Len).toNat + 1) = some 7#8 := by decide

theorem witness_HostBufferWrites :
    ended.busy = false ∧ ended.src.wf = true ∧ ended.dst.wf = true ∧ ended.window ≠ none ∧
    (capped State.reset 8 8).busy = false ∧ (capped State.reset 8 8).src.wf = true ∧
    (capped State.reset 8 8).dst.wf = true ∧
    ({ capped State.reset 8 8 with script := [.request (.put .plain 7 [1])] } : State).script =
      .request (.put .plain 7 [1]) :: [] ∧
    ({ capped State.reset 8 8 with script := [.putDst 7 [1]] } : State).script = .putDst 7 [1] :: [] ∧
    (7#66 : Len).toNat + [1#8].length ≤ (capped State.reset 8 8).params.srcCap.toNat := by decide

/-- The window open in an idle state, its end by a STATUS read, and its beginning from a state of reset. -/
theorem witness_OwnershipWindow :
    ended.window ≠ none ∧ ended.busy = false ∧ Instr.blue.operation ≠ none ∧
    nextIs (step { ended with script := [.request (.regRead 1)] }) (fun t => t.window == none) = true ∧
    nextIs (step { ended with script := [.wait] }) (fun t => t.window == none) = true ∧
    nextIs (step { ended with script := [.reset] }) (fun t => t.window == none) = true ∧
    State.reset.seq = none ∧ State.reset.window = none ∧
    nextIs (step { State.reset with script := [.request (.cmd 9)] }) (fun t => t.window.isSome) = true ∧
    nextIs (step { State.reset with script := [.request (.regWrite 0 9)] }) (fun t => t.window.isSome) = true := by
  decide

theorem witness_WaitPollsStatus :
    ({ State.reset with script := [.wait] } : State).script = .wait :: [] ∧ State.reset.busy = false ∧
    ({ started State.reset 1 with script := [.wait] } : State).busy = true := by decide

theorem witness_CoreMoveFrame : (coreMove (started State.reset 1)).seq ≠ none := by decide

theorem witness_SequencerRefinesAtomic :
    (loaded 5 1 0 (List.replicate 5 9)).busy = false ∧ (loaded 5 1 0 (List.replicate 5 9)).dst.wf = true ∧
    (loaded 5 1 0 (List.replicate 5 9)).script = [] ∧
    nextIs (exec (decodeCmd (BitVec.ofNat 32 5)) (loaded 5 1 0 (List.replicate 5 9)))
      (fun t => t.status == 0x02#32) = true := by decide +kernel

/-- The invariant holds of an idle state, of a BUSY one, of one inside its grid and of one in the window. -/
theorem witness_StepKeepsInvariant :
    ended.inv = true ∧
    (loaded 5 1 0 (List.replicate 5 9)).inv = true ∧
    (started (loaded 5 1 0 (List.replicate 5 9)) 5).inv = true ∧
    (coreMove (started (loaded 5 1 0 (List.replicate 5 9)) 5)).inv = true ∧
    nextIs (step (coreMove (started (loaded 5 1 0 (List.replicate 5 9)) 5))) (fun t => t.busy) = true := by
  decide +kernel

theorem witness_StepKeepsParameters :
    nextIs (step { State.reset with script := [.reset] }) (fun t => t.params == Params.default) = true := by
  decide

end Sys2Proof.Tests
end

/-! The integer square root of R12: the bitwise search keeps `t * t ≤ n < (t + 2 ^ k) * (t + 2 ^ k)`, where `k` bits
are still to be decided. -/

namespace Sys2Proof.Machine

theorem isqrtFrom_bounds (n k t : Nat) (hlo : t * t ≤ n) (hhi : n < (t + 2 ^ k) * (t + 2 ^ k)) :
    isqrtFrom n k t * isqrtFrom n k t ≤ n ∧
      n < (isqrtFrom n k t + 1) * (isqrtFrom n k t + 1) := by
  induction k generalizing t with
  | zero => exact ⟨hlo, hhi⟩
  | succ k ih =>
    rw [isqrtFrom]
    split
    next htaken =>
      refine ih (t + 2 ^ k) htaken ?_
      rwa [Nat.add_assoc, ← Nat.two_mul, ← Nat.pow_succ']
    next hleft => exact ih t hlo (Nat.lt_of_not_le hleft)

/-- The search starts above the root: twice `log2 n / 2 + 1` bits hold `n`. -/
theorem lt_sq_two_pow_half_log2 (n : Nat) :
    n < 2 ^ (n.log2 / 2 + 1) * 2 ^ (n.log2 / 2 + 1) :=
  calc n < 2 ^ (n.log2 + 1) := Nat.lt_log2_self
    _ ≤ 2 ^ (n.log2 / 2 + 1 + (n.log2 / 2 + 1)) := Nat.pow_le_pow_right (by decide) (by omega)
    _ = 2 ^ (n.log2 / 2 + 1) * 2 ^ (n.log2 / 2 + 1) := Nat.pow_add ..

theorem isqrt_bounds (n : Nat) : isqrt n * isqrt n ≤ n ∧ n < (isqrt n + 1) * (isqrt n + 1) :=
  isqrtFrom_bounds n _ 0 (Nat.zero_le n) (by
    rw [Nat.zero_add]
    exact lt_sq_two_pow_half_log2 n)

end Sys2Proof.Machine

/-- Settles O24, by the invariant of the bitwise search (`isqrtFrom_bounds`). -/
theorem integerSquareRoot : Obligations.IntegerSquareRoot := Sys2Proof.Machine.isqrt_bounds

/-! The parameters of R8 along a step: each HOST access, the CORE's move and the reset input leave them alone. -/

namespace Sys2Proof.Machine

/-- If `o` is a next state, its parameters are `p`. -/
def HasParams (p : Params) (o : Host.Outcome State Fault Refusal) : Prop :=
  ∀ t, o = .next t → t.params = p

@[simp] theorem hasParams_next (p : Params) (t : State) : HasParams p (.next t) ↔ t.params = p := by
  simp [HasParams]

@[simp] theorem hasParams_fault (p : Params) (f : Fault) : HasParams p (.fault f) := by
  simp [HasParams]

@[simp] theorem hasParams_refused (p : Params) (r : Refusal) : HasParams p (.refused r) := by
  simp [HasParams]

@[simp] theorem coreMove_params (s : State) : (coreMove s).params = s.params := by
  obtain ⟨-, h⟩ | ⟨_, _, -, -, h⟩ | ⟨_, _, -, -, -, h⟩ | ⟨_, _, -, -, -, h⟩ | ⟨_, _, -, -, -, h⟩ :=
    coreMove_cases s <;> simp [h]

@[simp] theorem writeReg_params (s : State) (n v : Nat) : (s.writeReg n v).params = s.params := by
  obtain h | ⟨-, -, h⟩ | ⟨-, -, h⟩ | ⟨-, -, h⟩ | ⟨-, -, h⟩ | ⟨-, -, h⟩ :=
    writeReg_cases s n v <;> simp [h]

theorem runOperation_hasParams (body : State → Except ErrKind Completion) (s : State) :
    HasParams s.params (runOperation body s) := by
  obtain ⟨-, h⟩ | ⟨_, -, -, h⟩ | ⟨_, -, -, h⟩ := runOperation_cases body s <;> simp [h]

theorem accessReg_hasParams (n : Nat) (x : RegAccess) (s : State) :
    HasParams s.params (accessReg n x s) := by
  cases x <;> simp [accessReg]

theorem putSrc_hasParams (a : Len) (bs : List Byte) (s : State) :
    HasParams s.params (putSrc a bs s) := by
  obtain ⟨-, h⟩ | ⟨-, -, h⟩ | ⟨-, -, h⟩ := putSrc_cases a bs s <;> simp [h]

theorem putDst_hasParams (a : Len) (bs : List Byte) (s : State) :
    HasParams s.params (putDst a bs s) := by
  obtain ⟨-, h⟩ | ⟨-, -, h⟩ | ⟨-, -, h⟩ := putDst_cases a bs s <;> simp [h]

theorem getDst_hasParams (a : Len) (n : Nat) (s : State) :
    HasParams s.params (getDst a n s) := by
  obtain ⟨-, -, h⟩ | ⟨-, -, h⟩ | ⟨-, h⟩ := getDst_cases a n s <;> simp [h]

theorem getSrc_hasParams (a : Len) (n : Nat) (s : State) :
    HasParams s.params (getSrc a n s) := by
  unfold getSrc
  split <;> simp

theorem exec_hasParams (i : Instr) (s : State) : HasParams s.params (exec i s) := by
  obtain ⟨op, h⟩ | ⟨a, bs, h⟩ | ⟨n, x, h⟩ := instr_kinds i
  · exact exec_of_operation i op s h ▸ runOperation_hasParams (opBody op) s
  · exact exec_of_datum i a bs s h ▸ putSrc_hasParams a bs s
  · exact exec_of_register i n x s h ▸ accessReg_hasParams n x s

theorem execUndecoded_hasParams (r : Request) (s : State) :
    HasParams s.params (execUndecoded r s) := by
  cases r with
  | cmd _ => simp [execUndecoded]
  | regRead n => exact accessReg_hasParams n .read s
  | regWrite n v => exact accessReg_hasParams n (.write v) s
  | put _ a bs => exact putSrc_hasParams a bs s

theorem execRequest_hasParams (r : Request) (s : State) : HasParams s.params (execRequest r s) := by
  unfold execRequest
  split
  next i _ => exact exec_hasParams i s
  next => exact execUndecoded_hasParams r s

theorem hostMove_hasParams (a : HostAction) (s : State) : HasParams s.params (hostMove a s) := by
  cases a with
  | request r => exact execRequest_hasParams r s
  | getDst a n => exact getDst_hasParams a n s
  | getSrc a n => exact getSrc_hasParams a n s
  | putDst a bs => exact putDst_hasParams a bs s
  | wait =>
    rw [hostMove]
    split
    · simp
    · exact accessReg_hasParams 1 .read s
  | idle => simp [hostMove]
  | reset => simp [hostMove]

theorem step_hasParams (s : State) : HasParams s.params (step s) := by
  cases h : s.script with
  | nil => simp [step_of_nil s h]
  | cons a rest => exact step_of_cons s a rest h ▸ hostMove_hasParams a { s with script := rest }

end Sys2Proof.Machine

/-- Settles O54, by the case of each HOST action and of the CORE's move (`step_hasParams`). -/
theorem stepKeepsParameters : Obligations.StepKeepsParameters := Sys2Proof.Machine.step_hasParams

/-! What an operation computes: the completion of each rule that passes its checks, and the cells of one visit of the
sequencer against it (spec/10_state.md R30, R36): every cell that a visit writes is a byte of the output. -/

namespace Sys2Proof.Machine

/-! ### Completions -/

theorem hdrDecBody_ok {s : State} {c : Completion} (h : hdrDecBody s = .ok c) :
    ∃ d, s.srcHeader = some d ∧ c = { len := 0, out := [], dims := some d } := by
  have h := (guard_ok _ _ _ _ h).2
  split at h
  · cases h
  next w v hd => exact ⟨(w, v), hd, (Except.ok.inj h).symm⟩

theorem plnEncBody_ok {s : State} {c : Completion} (h : plnEncBody s = .ok c) :
    c = { len := 8 * blockCount s.width s.height
          out := plnEncode s.params.modeTie s.srcByte s.width.toNat s.height.toNat
          dims := none } := by
  have h := (guard_ok _ _ _ _ (guard_ok _ _ _ _ (guard_ok _ _ _ _ h).2).2).2
  exact (output_guard_ok s _ _ _ h).1.symm

theorem plnDecBody_ok {s : State} {c : Completion} (h : plnDecBody s = .ok c) :
    c = { len := s.width.toNat * s.height.toNat
          out := plnDecode s.srcByte s.width.toNat s.height.toNat
          dims := none } := by
  have h := (guard_ok _ _ _ _ (guard_ok _ _ _ _ (guard_ok _ _ _ _ h).2).2).2
  exact (output_guard_ok s _ _ _ h).1.symm

theorem imgEncBody_ok {s : State} {c : Completion} (h : imgEncBody s = .ok c) :
    c = { len := 12 + 16 * blockCount s.width s.height
          out := imgEncode s.params.modeTie s.srcByte s.width s.height
          dims := none } := by
  have h := (guard_ok _ _ _ _ (guard_ok _ _ _ _ (guard_ok _ _ _ _ h).2).2).2
  exact (output_guard_ok s _ _ _ h).1.symm

theorem imgDecBody_ok {s : State} {c : Completion} (h : imgDecBody s = .ok c) :
    ∃ d, s.srcHeader = some d ∧ ¬ zeroArea d.1 d.2 = true ∧
      c = { len := 4 * d.1.toNat * d.2.toNat
            out := imgDecode s.params.roundHalf s.blueMode s.srcByte d.1.toNat d.2.toNat
            dims := some d } := by
  have h := (guard_ok _ _ _ _ h).2
  split at h
  · cases h
  next w v hd =>
    obtain ⟨hz, h⟩ := guard_ok _ _ _ _ h
    exact ⟨(w, v), hd, hz, (output_guard_ok s _ _ _ (guard_ok _ _ _ _ h).2).1.symm⟩

/-- HDR_DEC and IMG_DEC complete with dimensions, no other operation does (R28, R36). -/
theorem opBody_ok_dims_isSome {op : Op} {s : State} {c : Completion} (h : opBody op s = .ok c) :
    c.dims.isSome = (op == .hdrDec || op == .imgDec) := by
  cases op with
  | hdrEnc => obtain ⟨rfl, -⟩ := output_guard_ok s _ _ _ h; rfl
  | hdrDec => obtain ⟨d, -, rfl⟩ := hdrDecBody_ok h; rfl
  | blkEnc | blkDec | blue =>
    obtain ⟨rfl, -⟩ := output_guard_ok s _ _ _ (guard_ok _ _ _ _ (guard_ok _ _ _ _ h).2).2; rfl
  | plnEnc => rw [plnEncBody_ok h]; rfl
  | plnDec => rw [plnDecBody_ok h]; rfl
  | imgEnc => rw [imgEncBody_ok h]; rfl
  | imgDec => obtain ⟨d, -, -, rfl⟩ := imgDecBody_ok h; rfl
  | illegal => cases h

theorem zeroArea_eq_false {w h : Dim} (hz : ¬ zeroArea w h = true) : 0 < w.toNat ∧ 0 < h.toNat := by
  simp only [zeroArea, Bool.or_eq_true, beq_iff_eq, not_or, ← BitVec.toNat_inj] at hz
  exact ⟨Nat.pos_of_ne_zero hz.1, Nat.pos_of_ne_zero hz.2⟩

/-- A block of 4 by 4 pixels for every true pixel (R180). -/
theorem div_four_lt_cdiv4 (x w : Nat) (h : x < w) : x / 4 < cdiv4 w := by unfold cdiv4; omega

/-- A rule that completes has blocks to visit: its grid is not empty. -/
theorem opBody_ok_grid_pos {op : Op} {s : State} {c : Completion} (h : opBody op s = .ok c) :
    0 < (s.grid op).1 ∧ 0 < (s.grid op).2.1 ∧ 0 < (s.grid op).2.2 := by
  have harea : ∀ w v : Dim, ¬ zeroArea w v = true → 0 < cdiv4 v.toNat ∧ 0 < cdiv4 w.toNat := by
    intro w v hz
    obtain ⟨hw, hv⟩ := zeroArea_eq_false hz
    exact ⟨div_four_lt_cdiv4 0 _ hv, div_four_lt_cdiv4 0 _ hw⟩
  cases op with
  | hdrEnc | hdrDec | blkEnc | blkDec | blue | illegal => exact ⟨Nat.one_pos, Nat.one_pos, Nat.one_pos⟩
  | plnEnc | plnDec =>
    obtain ⟨hr, hc⟩ := harea s.width s.height (guard_ok _ _ _ _ (guard_ok _ _ _ _ h).2).1
    exact ⟨hr, hc, Nat.one_pos⟩
  | imgEnc =>
    obtain ⟨hr, hc⟩ := harea s.width s.height (guard_ok _ _ _ _ (guard_ok _ _ _ _ h).2).1
    exact ⟨hr, hc, Nat.two_pos⟩
  | imgDec =>
    obtain ⟨d, hd, hz, -⟩ := imgDecBody_ok h
    obtain ⟨hr, hc⟩ := harea d.1 d.2 hz
    simp only [State.grid, State.gridDims, hd, Option.getD_some]
    exact ⟨hr, hc, Nat.two_pos⟩

/-! ### Positions of the grid -/

/-- The position `(br, bc, ch)` lies in the grid `g` (R30). -/
def inGrid (g : Nat × Nat × Nat) (br bc ch : Nat) : Prop := br < g.1 ∧ bc < g.2.1 ∧ ch < g.2.2

theorem seqInGrid_of_run {s : State} {q : Seq} (hp : q.phase = .run) :
    s.seqInGrid q = true ↔ inGrid (s.grid q.op) q.br q.bc q.ch := by
  simp [State.seqInGrid, hp, inGrid, and_assoc]

theorem seqInGrid_of_check {s : State} {q : Seq} (hp : q.phase = .check) :
    s.seqInGrid q = true ↔ q.br = 0 ∧ q.bc = 0 ∧ q.ch = 0 := by
  simp [State.seqInGrid, hp, and_assoc]

theorem seqInGrid_of_complete {s : State} {q : Seq} (hp : q.phase = .complete) :
    s.seqInGrid q = true := by simp [State.seqInGrid, hp]

/-- Where the sequencer goes from a position of its grid (R30): the next channel, the next block column, the next
block row, or COMPLETE from the last position. -/
theorem advance_cases {g : Nat × Nat × Nat} {q : Seq} (h : inGrid g q.br q.bc q.ch) :
    (q.advance g = { q with ch := q.ch + 1 } ∧ inGrid g q.br q.bc (q.ch + 1)) ∨
    (q.ch + 1 = g.2.2 ∧ q.advance g = { q with bc := q.bc + 1, ch := 0 } ∧ inGrid g q.br (q.bc + 1) 0) ∨
    (q.ch + 1 = g.2.2 ∧ q.bc + 1 = g.2.1 ∧ q.advance g = { q with br := q.br + 1, bc := 0, ch := 0 } ∧
      inGrid g (q.br + 1) 0 0) ∨
    (q.ch + 1 = g.2.2 ∧ q.bc + 1 = g.2.1 ∧ q.br + 1 = g.1 ∧ q.advance g = { q with phase := .complete }) := by
  obtain ⟨hr, hc, hch⟩ := h
  by_cases h1 : q.ch + 1 < g.2.2
  · exact .inl ⟨if_pos h1, hr, hc, h1⟩
  · by_cases h2 : q.bc + 1 < g.2.1
    · exact .inr (.inl ⟨by omega, by simp [Seq.advance, h1, h2], hr, h2, by omega⟩)
    · by_cases h3 : q.br + 1 < g.1
      · exact .inr (.inr (.inl
          ⟨by omega, by omega, by simp [Seq.advance, h1, h2, h3], h3, by omega, by omega⟩))
      · exact .inr (.inr (.inr ⟨by omega, by omega, by omega, by simp [Seq.advance, h1, h2, h3]⟩))

/-! ### Addresses in row-major order -/

theorem rowMajor_div (w x y : Nat) (hx : x < w) : (y * w + x) / w = y := by
  rw [Nat.mul_comm, Nat.mul_add_div (by omega), Nat.div_eq_of_lt hx, Nat.add_zero]

theorem rowMajor_mod (w x y : Nat) (hx : x < w) : (y * w + x) % w = x := by
  rw [Nat.mul_comm, Nat.mul_add_mod, Nat.mod_eq_of_lt hx]

theorem rowMajor_lt (w h x y : Nat) (hx : x < w) (hy : y < h) : y * w + x < w * h := by
  have : w * (y + 1) ≤ w * h := Nat.mul_le_mul_left w hy
  rw [Nat.mul_succ, Nat.mul_comm] at this
  omega

/-- Item `i` of piece `k` of a list made of pieces of one length. -/
theorem getElem?_flatMap_range {β : Type} (f : Nat → List β) (len : Nat) (n k i : Nat)
    (hf : ∀ j, (f j).length = len) (hk : k < n) (hi : i < len) :
    ((List.range n).flatMap f)[len * k + i]? = (f k)[i]? := by
  have hlen : ∀ m, ((List.range m).flatMap f).length = len * m := by
    intro m; simp [List.length_flatMap, hf, Nat.mul_comm]
  induction n with
  | zero => omega
  | succ n ih =>
    rw [List.range_succ, List.flatMap_append, List.flatMap_singleton]
    rcases Nat.lt_succ_iff_lt_or_eq.mp hk with hlt | rfl
    · have : len * (k + 1) ≤ len * n := Nat.mul_le_mul_left len hlt
      rw [List.getElem?_append_left (by rw [hlen]; rw [Nat.mul_succ] at this; omega), ih hlt]
    · rw [List.getElem?_append_right (by rw [hlen]; omega), hlen, Nat.add_sub_cancel_left]

/-! ### The cells of one visit -/

theorem mem_cellsAt (a : Nat) (bs : List Byte) (x : Nat × Byte) :
    x ∈ cellsAt a bs ↔ ∃ i, x.1 = a + i ∧ bs[i]? = some x.2 := by
  obtain ⟨p, b⟩ := x
  simp only [cellsAt, List.mem_map, List.mem_range, Prod.mk.injEq, List.getElem?_eq_some_iff]
  constructor
  · rintro ⟨i, hi, rfl, hb⟩
    exact ⟨i, rfl, hi, by simpa [hi] using hb⟩
  · rintro ⟨i, rfl, hi, hb⟩
    exact ⟨i, hi, rfl, by simpa [hi] using hb⟩

/-- The true pixels of a block (R186): those whose coordinates divided by 4 are the block's. -/
theorem mem_blockPixels (w h br bc : Nat) (q : Nat × Nat) :
    q ∈ blockPixels w h br bc ↔ q.1 < w ∧ q.2 < h ∧ q.1 / 4 = bc ∧ q.2 / 4 = br := by
  obtain ⟨x, y⟩ := q
  simp only [blockPixels, List.mem_filter, List.mem_map, List.mem_range, Prod.mk.injEq,
    Bool.and_eq_true, decide_eq_true_eq]
  constructor
  · rintro ⟨⟨k, hk, rfl, rfl⟩, hx, hy⟩
    exact ⟨hx, hy, by omega, by omega⟩
  · rintro ⟨hx, hy, hc, hr⟩
    exact ⟨⟨4 * (y % 4) + x % 4, by omega, by omega, by omega⟩, hx, hy⟩

/-- Byte `i` of the block at `(br, bc)` of an encoded plane (R185). -/
theorem getElem?_plnEncode (tie : ModeTie) (p : Nat → Byte) (w h br bc i : Nat) (hr : br < cdiv4 h)
    (hc : bc < cdiv4 w) (hi : i < 8) :
    (plnEncode tie p w h)[addrPb (cdiv4 w) br bc + i]? = (blkEncode tie (gather p w h br bc))[i]? := by
  rw [plnEncode, addrPb, getElem?_flatMap_range _ 8 _ _ _ (by simp [plnEncodeBlock])
    (rowMajor_lt _ _ _ _ hc hr) hi, plnEncodeBlock, rowMajor_div _ _ _ hc, rowMajor_mod _ _ _ hc]

/-- Sample `(x, y)` of a decoded plane (R186). -/
theorem getElem?_plnDecode (e : Nat → Byte) (w h x y : Nat) (hx : x < w) (hy : y < h) :
    (plnDecode e w h)[addrPl w x y]? = some (plnDecodeSample e w x y) := by
  rw [plnDecode, addrPl, List.getElem?_map, List.getElem?_range (rowMajor_lt w h x y hx hy),
    Option.map_some, rowMajor_div w x y hx, rowMajor_mod w x y hx]

/-- The header of an encoded image (R201). -/
theorem getElem?_imgEncode_header (tie : ModeTie) (img : Nat → Byte) (w h : Dim) (i : Nat) (hi : i < 12) :
    (imgEncode tie img w h)[i]? = (hdrBytes w h)[i]? :=
  List.getElem?_append_left (by simpa using hi)

/-- Byte `i` of the sub-block of channel `ch` at `(br, bc)` of an encoded image (R201). -/
theorem getElem?_imgEncode_block (tie : ModeTie) (img : Nat → Byte) (w h : Dim) (br bc ch i : Nat)
    (hr : br < cdiv4 h.toNat) (hc : bc < cdiv4 w.toNat) (hch : ch < 2) (hi : i < 8) :
    (imgEncode tie img w h)[addrSb (cdiv4 w.toNat) br bc ch + i]? =
      (blkEncode tie (gather (channelPlane img ch) w.toNat h.toNat br bc))[i]? := by
  have hbody : (imgEncode tie img w h)[addrSb (cdiv4 w.toNat) br bc ch + i]? =
      (imgEncodePair tie img w.toNat h.toNat (br * cdiv4 w.toNat + bc))[8 * ch + i]? := by
    rw [imgEncode, List.getElem?_append_right (by simp [addrSb]; omega),
      ← getElem?_flatMap_range (imgEncodePair tie img w.toNat h.toNat) 16 (blockCount w h)
        (br * cdiv4 w.toNat + bc) (8 * ch + i) (by simp [imgEncodePair, plnEncodeBlock])
        (rowMajor_lt _ _ _ _ hc hr) (by omega)]
    congr 1
    simp only [addrSb, hdrBytes_length]
    omega
  rw [hbody, imgEncodePair, plnEncodeBlock, plnEncodeBlock, rowMajor_div _ _ _ hc, rowMajor_mod _ _ _ hc]
  obtain rfl | rfl : ch = 0 ∨ ch = 1 := by omega
  · rw [List.getElem?_append_left (by simpa using hi), Nat.mul_zero, Nat.zero_add]
  · rw [List.getElem?_append_right (by simp), blkEncode_length, Nat.mul_one, Nat.add_sub_cancel_left]

/-- Component `k` of pixel `(x, y)` of a decoded image (R204). -/
theorem getElem?_imgDecode (half : RoundHalf) (mode : BitVec 2) (t : Nat → Byte) (w h x y k : Nat)
    (hx : x < w) (hy : y < h) (hk : k < 4) :
    (imgDecode half mode t w h)[addrPx w x y k]? =
      (pixelBytes (imgDecodeSample t w 0 x y) (imgDecodeSample t w 1 x y)
        (blue half mode (imgDecodeSample t w 0 x y) (imgDecodeSample t w 1 x y)) 0xFF#8)[k]? := by
  rw [imgDecode, addrPx, getElem?_flatMap_range _ 4 _ _ _ (by simp [imgDecodePixel])
    (rowMajor_lt w h x y hx hy) hk, imgDecodePixel, rowMajor_div w x y hx, rowMajor_mod w x y hx]

/-- Every cell that a visit writes is the output's byte of that address. -/
theorem visitCells_agree {op : Op} {s : State} {c : Completion} (h : opBody op s = .ok c)
    {br bc ch : Nat} (hg : inGrid (s.grid op) br bc ch) {x : Nat × Byte}
    (hx : x ∈ s.visitCells op br bc ch) : c.out[x.1]? = some x.2 := by
  obtain ⟨hr, hc, hch⟩ := hg
  cases op with
  | hdrEnc | hdrDec | blkEnc | blkDec | blue | illegal =>
    simp only [State.visitCells, h] at hx
    obtain ⟨i, hi, hb⟩ := (mem_cellsAt _ _ _).mp hx
    rw [hi, Nat.zero_add, hb]
  | plnEnc =>
    obtain ⟨i, hi, hb⟩ := (mem_cellsAt _ _ _).mp hx
    have hi8 : i < 8 := by simpa using (List.getElem?_eq_some_iff.mp hb).1
    rw [plnEncBody_ok h, hi, ← hb]
    exact getElem?_plnEncode _ _ _ _ _ _ _ hr hc hi8
  | plnDec =>
    obtain ⟨q, hq, rfl⟩ := List.mem_map.mp hx
    obtain ⟨hqw, hqh, -, -⟩ := (mem_blockPixels _ _ _ _ _).mp hq
    rw [plnDecBody_ok h]
    exact getElem?_plnDecode _ _ _ _ _ hqw hqh
  | imgEnc =>
    rw [imgEncBody_ok h]
    rcases List.mem_append.mp hx with hx | hx
    · rw [headerCells] at hx
      split at hx
      · obtain ⟨i, hi, hb⟩ := (mem_cellsAt _ _ _).mp hx
        have hi12 : i < 12 := by simpa using (List.getElem?_eq_some_iff.mp hb).1
        rw [hi, Nat.zero_add, ← hb]
        exact getElem?_imgEncode_header _ _ _ _ _ hi12
      · cases hx
    · obtain ⟨i, hi, hb⟩ := (mem_cellsAt _ _ _).mp hx
      have hi8 : i < 8 := by simpa using (List.getElem?_eq_some_iff.mp hb).1
      rw [hi, ← hb]
      exact getElem?_imgEncode_block _ _ _ _ _ _ _ _ hr hc hch hi8
  | imgDec =>
    obtain ⟨d, hd, -, rfl⟩ := imgDecBody_ok h
    obtain ⟨q, hq, hx⟩ := List.mem_flatMap.mp hx
    simp only [State.gridDims, hd, Option.getD_some] at hq hx
    obtain ⟨hqw, hqh, -, -⟩ := (mem_blockPixels _ _ _ _ _).mp hq
    have hpx := fun k => getElem?_imgDecode s.params.roundHalf s.blueMode s.srcByte d.1.toNat d.2.toNat
      q.1 q.2 k hqw hqh
    unfold imgDecCells at hx
    split at hx
    · obtain rfl := List.mem_singleton.mp hx
      exact hpx 0 (by decide)
    · simp only [List.mem_cons, List.not_mem_nil, or_false] at hx
      obtain rfl | rfl | rfl := hx
      · exact hpx 1 (by decide)
      · exact hpx 2 (by decide)
      · exact hpx 3 (by decide)

end Sys2Proof.Machine

/-! The invariant along a step: what the buffers keep under each write, then each shared operation, then the cases of
the step. -/

namespace Sys2Proof.Machine

/-! ### The capacity of a buffer -/

theorem Memory.within_write (cap : Nat) (m : Memory) (a : Nat) (v : Byte) (ha : a < cap)
    (h : Memory.within cap m = true) : Memory.within cap (Memory.write m a v) = true := by
  induction m with
  | nil => simp [Memory.write, Memory.within, ha]
  | cons c m ih =>
    obtain ⟨hc, hm⟩ : c.1 < cap ∧ Memory.within cap m = true := by simpa [Memory.within] using h
    unfold Memory.write
    split
    · simpa [Memory.within, ha] using h
    · split
      · simpa [Memory.within, ha] using hm
      · simpa [Memory.within, hc] using ih hm

theorem Memory.within_writeBytes (cap : Nat) (bs : List Byte) (m : Memory) (a : Nat)
    (ha : a + bs.length ≤ cap) (h : Memory.within cap m = true) :
    Memory.within cap (Memory.writeBytes m a bs) = true := by
  induction bs generalizing m a with
  | nil => exact h
  | cons b bs ih =>
    rw [List.length_cons] at ha
    exact ih _ _ (by omega) (Memory.within_write cap m a b (by omega) h)

theorem Memory.within_writeCells (cap : Nat) (cs : List (Nat × Byte)) (m : Memory)
    (hc : ∀ x ∈ cs, x.1 < cap) (h : Memory.within cap m = true) :
    Memory.within cap (Memory.writeCells m cs) = true := by
  induction cs generalizing m with
  | nil => exact h
  | cons x cs ih =>
    exact ih _ (fun y hy => hc y (List.mem_cons_of_mem _ hy))
      (Memory.within_write cap m x.1 x.2 (hc x List.mem_cons_self) h)

/-- A HOST write inside a space keeps it inside its capacity (R27). -/
theorem Memory.within_writeBytes_of_inRange (cap : Len) (bs : List Byte) (m : Memory) (a n : Nat)
    (hn : bs.length = n) (hr : inRange cap a n = true) (h : Memory.within cap.toNat m = true) :
    Memory.within cap.toNat (Memory.writeBytes m a bs) = true := by
  simp only [inRange, Bool.or_eq_true, beq_iff_eq, decide_eq_true_eq] at hr
  obtain h0 | hle := hr
  · rw [List.length_eq_zero_iff.mp (hn.trans h0)]
    exact h
  · exact Memory.within_writeBytes _ _ _ _ (hn ▸ hle) h

/-! ### The invariant by its parts -/

/-- SRC and DST are canonical and hold no byte outside their capacities (R27, R73). -/
structure BuffersLegal (s : State) : Prop where
  srcWf : s.src.wf = true
  dstWf : s.dst.wf = true
  srcWithin : Memory.within s.params.srcCap.toNat s.src = true
  dstWithin : Memory.within s.params.dstCap.toNat s.dst = true

/-- The clauses of `State.inv`. -/
structure Legal (s : State) : Prop where
  buffers : BuffersLegal s
  status : s.status ∈ legalStatuses
  busy_eq : s.busy = s.seq.isSome
  err : statusErrBit s.status = true → s.dstLen = 0#66
  busyWindow : s.busy = true → s.window = some Window.plain
  window : ∀ w, s.window = some w → s.windowLegal w = true
  dstLen_le : s.dstLen.toNat ≤ s.params.dstCap.toNat
  seq : ∀ q, s.seq = some q → s.seqInGrid q = true

theorem inv_iff (s : State) : s.inv = true ↔ Legal s := by
  simp only [State.inv, Bool.and_eq_true, decide_eq_true_eq, beq_iff_eq, Option.all_eq_true,
    Bool.or_eq_true, Bool.not_eq_true', ← Bool.not_eq_true, ← imp_iff_not_or]
  constructor
  · rintro ⟨⟨⟨⟨⟨⟨⟨⟨⟨⟨hst, hbs⟩, herr⟩, hbw⟩, hw⟩, hsw⟩, hdw⟩, hsc⟩, hdc⟩, hlen⟩, hseq⟩
    exact ⟨⟨hsw, hdw, hsc, hdc⟩, hst, hbs, herr, hbw, hw, hlen, hseq⟩
  · rintro ⟨⟨hsw, hdw, hsc, hdc⟩, hst, hbs, herr, hbw, hw, hlen, hseq⟩
    exact ⟨⟨⟨⟨⟨⟨⟨⟨⟨⟨hst, hbs⟩, herr⟩, hbw⟩, hw⟩, hsw⟩, hdw⟩, hsc⟩, hdc⟩, hlen⟩, hseq⟩

theorem windowLegal_iff (s : State) (w : Window) : s.windowLegal w = true ↔
    (s.busy = true ∨ statusDoneBit s.status = true) ∧
      (statusErrBit s.status = true → w = Window.plain) := by
  simp [State.windowLegal, ← Bool.not_eq_true, ← imp_iff_not_or]

/-! ### STATUS -/

@[simp] theorem statusErrBit_statusDoneOk : statusErrBit statusDoneOk = false := by decide

@[simp] theorem statusErrBit_statusDoneErr (e : ErrKind) : statusErrBit (statusDoneErr e) = true := by
  cases e <;> decide

@[simp] theorem statusDoneBit_statusDoneOk : statusDoneBit statusDoneOk = true := by decide

@[simp] theorem statusDoneBit_statusDoneErr (e : ErrKind) : statusDoneBit (statusDoneErr e) = true := by
  cases e <;> decide

@[simp] theorem statusErrBit_statusBusy : statusErrBit statusBusy = false := by decide

@[simp] theorem statusBusy_mem_legalStatuses : statusBusy ∈ legalStatuses := by decide

@[simp] theorem statusDoneOk_mem_legalStatuses : statusDoneOk ∈ legalStatuses := by decide

@[simp] theorem statusDoneErr_mem_legalStatuses (e : ErrKind) : statusDoneErr e ∈ legalStatuses := by
  cases e <;> decide

/-- BUSY and DONE are never both 1 (R26). -/
theorem statusDoneBit_of_busy {v : BitVec 32} (h : v ∈ legalStatuses) (hb : statusBusyBit v = true) :
    statusDoneBit v = false := by
  simp only [legalStatuses, List.mem_cons, List.not_mem_nil, or_false] at h
  obtain rfl | rfl | rfl | rfl | rfl | rfl | rfl := h <;> revert hb <;> decide

/-- With BUSY = 0 no operation runs (R36). -/
theorem Legal.seq_none {s : State} (h : Legal s) (hb : s.busy = false) : s.seq = none := by
  have := h.busy_eq
  rwa [hb, eq_comm, Option.isSome_eq_false_iff, Option.isNone_iff_eq_none] at this

theorem Legal.busy {s : State} (h : Legal s) {q : Seq} (hq : s.seq = some q) : s.busy = true := by
  rw [h.busy_eq, hq]; rfl

/-- Whether a state is legal does not depend on the HOST's own fields. -/
theorem Legal.withHost {s : State} (h : Legal s) (rest : List HostAction) (r : HostIn) (k : Nat) :
    Legal { s with script := rest, hostIn := r, freeCtr := k } :=
  (inv_iff _).mp ((inv_iff s).mpr h)

/-! ### The life of an operation -/

theorem Legal.startOperation {s : State} (h : Legal s) (op : Op) : Legal (startOperation op s) where
  buffers := ⟨h.buffers.srcWf, h.buffers.dstWf, h.buffers.srcWithin, h.buffers.dstWithin⟩
  status := by simp
  busy_eq := by simp
  err := by simp
  busyWindow := fun _ => rfl
  window := by
    rintro _ ⟨⟩
    exact (windowLegal_iff _ _).mpr ⟨.inl (startOperation_busy op s), fun _ => rfl⟩
  dstLen_le := h.dstLen_le
  seq := by rintro _ ⟨⟩; rfl

theorem legal_raiseError {s : State} (h : BuffersLegal s) (e : ErrKind) : Legal (raiseError e s) where
  buffers := ⟨h.srcWf, h.dstWf, h.srcWithin, h.dstWithin⟩
  status := by simp
  busy_eq := by simp
  err := fun _ => rfl
  busyWindow := fun _ => rfl
  window := by
    rintro _ ⟨⟩
    exact (windowLegal_iff _ _).mpr ⟨.inr (by simp), fun _ => rfl⟩
  dstLen_le := by simp
  seq := by simp

theorem legal_commitRegisters {s : State} (h : BuffersLegal s) {c : Completion}
    (hc : c.len ≤ s.params.dstCap.toNat) : Legal (commitRegisters c s) where
  buffers := ⟨h.srcWf, h.dstWf, h.srcWithin, h.dstWithin⟩
  status := by simp
  busy_eq := by simp
  err := by simp
  busyWindow := fun hb => absurd hb (by simp)
  window := by
    rintro _ ⟨⟩
    exact (windowLegal_iff _ _).mpr ⟨.inr (by simp), by simp⟩
  dstLen_le := by
    rw [commitRegisters_dstLen, commitRegisters_params, BitVec.toNat_ofNat]
    exact (Nat.mod_le _ _).trans hc
  seq := by simp

theorem BuffersLegal.storeOutput {s : State} (h : BuffersLegal s) {c : Completion}
    (hc : c.out.length ≤ s.params.dstCap.toNat) : BuffersLegal (storeOutput c s) where
  srcWf := h.srcWf
  dstWf := Memory.wf_writeBytes _ _ _ h.dstWf
  srcWithin := h.srcWithin
  dstWithin := Memory.within_writeBytes _ _ _ _ (by simpa using hc) h.dstWithin

/-! ### Moves of the CORE -/

/-- The next position stays inside the grid (R30). -/
theorem seqInGrid_advance {s : State} {q : Seq} (hp : q.phase = .run)
    (h : inGrid (s.grid q.op) q.br q.bc q.ch) : s.seqInGrid (q.advance (s.grid q.op)) = true := by
  obtain ⟨he, hg⟩ | ⟨-, he, hg⟩ | ⟨-, -, he, hg⟩ | ⟨-, -, -, he⟩ := advance_cases h <;> rw [he]
  · exact (seqInGrid_of_run (by exact hp)).mpr hg
  · exact (seqInGrid_of_run (by exact hp)).mpr hg
  · exact (seqInGrid_of_run (by exact hp)).mpr hg
  · exact seqInGrid_of_complete rfl

/-- A visit writes inside DST (R73, R234). -/
theorem visitCells_lt_dstCap {op : Op} {s : State} {c : Completion} (h : opBody op s = .ok c)
    {br bc ch : Nat} (hg : inGrid (s.grid op) br bc ch) {x : Nat × Byte}
    (hx : x ∈ s.visitCells op br bc ch) : x.1 < s.params.dstCap.toNat := by
  obtain ⟨hlt, -⟩ := List.getElem?_eq_some_iff.mp (visitCells_agree h hg hx)
  obtain ⟨hlen, hcap⟩ := opBody_ok_spec op s c h
  omega

/-- While the operation goes on a move changes DST and SEQ alone. -/
theorem Legal.withDstSeq {s : State} (h : Legal s) {q q' : Seq} (hs : s.seq = some q) {m : Memory}
    (hwf : m.wf = true) (hin : Memory.within s.params.dstCap.toNat m = true)
    (hg : s.seqInGrid q' = true) : Legal { s with dst := m, seq := some q' } where
  buffers := ⟨h.buffers.srcWf, hwf, h.buffers.srcWithin, hin⟩
  status := h.status
  busy_eq := h.busy hs
  err := h.err
  busyWindow := h.busyWindow
  window := h.window
  dstLen_le := h.dstLen_le
  seq := by rintro _ ⟨⟩; exact hg

theorem Legal.coreMove {s : State} (h : Legal s) : Legal (coreMove s) := by
  obtain ⟨-, he⟩ | ⟨_, e, -, -, he⟩ | ⟨q, c, hs, ho, hp, he⟩ | ⟨q, c, hs, ho, hp, he⟩ |
    ⟨q, c, hs, ho, -, he⟩ := coreMove_cases s <;> rw [he]
  · exact h
  · exact legal_raiseError h.buffers e
  · refine h.withDstSeq hs h.buffers.dstWf h.buffers.dstWithin ?_
    obtain ⟨hr, hc, hch⟩ := (seqInGrid_of_check hp).mp (h.seq q hs)
    simpa [seqInGrid_of_run, inGrid, hr, hc, hch] using opBody_ok_grid_pos ho
  · have hg := (seqInGrid_of_run hp).mp (h.seq q hs)
    exact h.withDstSeq hs (Memory.wf_writeCells _ _ h.buffers.dstWf)
      (Memory.within_writeCells _ _ _ (fun _ hx => visitCells_lt_dstCap ho hg hx) h.buffers.dstWithin)
      (seqInGrid_advance hp hg)
  · exact legal_commitRegisters h.buffers (opBody_ok_spec q.op s c ho).2

/-! ### Accesses of the HOST -/

/-- An idle state stays legal when the HOST changes operand registers, buffer bytes, or what the window covers; a
window over a failed operation covers nothing, before and after (R36). -/
theorem Legal.idleAccess {s t : State} (h : Legal s) (hb : s.busy = false) (hst : t.status = s.status)
    (hseq : t.seq = s.seq) (hlen : t.dstLen = s.dstLen) (hp : t.params = s.params)
    (hbuf : BuffersLegal t)
    (hw : ∀ w', t.window = some w' → ∃ w, s.window = some w ∧ (w = Window.plain → w' = Window.plain)) :
    Legal t := by
  have hs := h.seq_none hb
  have hbt : t.busy = s.busy := congrArg statusBusyBit hst
  refine ⟨hbuf, hst ▸ h.status, ?_, ?_, ?_, fun w' hw' => ?_, ?_, ?_⟩
  · rw [hbt, hseq]; exact h.busy_eq
  · rw [hst, hlen]; exact h.err
  · rw [hbt, hb]; exact nofun
  · obtain ⟨w, hsw, hplain⟩ := hw w' hw'
    obtain ⟨hdone, herr⟩ := (windowLegal_iff s w).mp (h.window w hsw)
    rw [windowLegal_iff, hbt, hst]
    exact ⟨hdone, fun he => hplain (herr he)⟩
  · rw [hlen, hp]; exact h.dstLen_le
  · rw [hseq, hs]; exact nofun

/-- If `o` is a next state, that state is legal. -/
def NextLegal (o : Host.Outcome State Fault Refusal) : Prop := ∀ t, o = .next t → Legal t

@[simp] theorem nextLegal_next (t : State) : NextLegal (.next t) ↔ Legal t := by simp [NextLegal]

@[simp] theorem nextLegal_fault (f : Fault) : NextLegal (.fault f) := by simp [NextLegal]

@[simp] theorem nextLegal_refused (r : Refusal) : NextLegal (.refused r) := by simp [NextLegal]

theorem Legal.runOperation {s : State} (h : Legal s) (op : Op) :
    NextLegal (runOperation (opBody op) s) := by
  obtain ⟨-, he⟩ | ⟨e, -, -, he⟩ | ⟨c, -, ho, he⟩ := runOperation_cases (opBody op) s <;>
    rw [he, nextLegal_next]
  · exact h
  · exact legal_raiseError h.buffers e
  · obtain ⟨hlen, hcap⟩ := opBody_ok_spec op s c ho
    exact legal_commitRegisters (h.buffers.storeOutput (hlen ▸ hcap)) hcap

theorem BuffersLegal.of_eq {s t : State} (h : BuffersLegal s) (hsrc : t.src = s.src) (hdst : t.dst = s.dst)
    (hp : t.params = s.params) : BuffersLegal t :=
  ⟨hsrc ▸ h.srcWf, hdst ▸ h.dstWf, hp ▸ hsrc ▸ h.srcWithin, hp ▸ hdst ▸ h.dstWithin⟩

/-- A window that covers nothing still covers nothing after the HOST writes WIDTH or HEIGHT. -/
theorem window_map_plain {s : State} {f : Window → Window} (hf : f Window.plain = Window.plain) :
    ∀ w', s.window.map f = some w' → ∃ w, s.window = some w ∧ (w = Window.plain → w' = Window.plain) := by
  intro w' hw'
  obtain ⟨w, hw, rfl⟩ := Option.map_eq_some_iff.mp hw'
  exact ⟨w, hw, fun hplain => hplain ▸ hf⟩

theorem Legal.writeReg {s : State} (h : Legal s) (n v : Nat) : Legal (s.writeReg n v) := by
  have hbuf {t : State} := h.buffers.of_eq (t := t)
  obtain he | ⟨-, -, he⟩ | ⟨hb, -, he⟩ | ⟨hb, -, he⟩ | ⟨hb, -, he⟩ | ⟨hb, -, he⟩ :=
    writeReg_cases s n v <;> rw [he]
  · exact h
  · exact h.startOperation _
  · exact h.idleAccess hb rfl rfl rfl rfl (hbuf rfl rfl rfl) (window_map_plain (f := fun _ => _) rfl)
  · exact h.idleAccess hb rfl rfl rfl rfl (hbuf rfl rfl rfl) (window_map_plain (f := fun _ => _) rfl)
  · exact h.idleAccess hb rfl rfl rfl rfl (hbuf rfl rfl rfl) fun w hw => ⟨w, hw, id⟩
  · exact h.idleAccess hb rfl rfl rfl rfl (hbuf rfl rfl rfl) fun w hw => ⟨w, hw, id⟩

/-- The window that a register read leaves is the old one or, from an idle state, none. -/
theorem Legal.closeWindow {s : State} (h : Legal s) (n : Nat) :
    Legal { s with window := s.windowAfterRead n } := by
  unfold State.windowAfterRead
  split
  next hd =>
    have hb : s.busy = false := by
      cases hb : s.busy with
      | false => rfl
      | true => exact absurd hd.2 (by simp [statusDoneBit_of_busy h.status hb])
    exact h.idleAccess hb rfl rfl rfl rfl (h.buffers.of_eq rfl rfl rfl) nofun
  next => exact h

theorem Legal.accessReg {s : State} (h : Legal s) (n : Nat) (x : RegAccess) :
    NextLegal (accessReg n x s) := by
  cases x with
  | read => exact (nextLegal_next _).mpr ((h.closeWindow n).withHost _ _ _)
  | write v => exact (nextLegal_next _).mpr (h.writeReg n v)

/-- Spoiling the result rewrites only bytes that DST has (R234). -/
theorem storeSrc_buffers {s : State} (h : Legal s) (a : Nat) (bs : List Byte)
    (hr : inRange s.params.srcCap a bs.length = true) : BuffersLegal (storeSrc a bs s) := by
  have hsrc := Memory.within_writeBytes_of_inRange _ bs s.src a _ rfl hr h.buffers.srcWithin
  have hsrcWf := Memory.wf_writeBytes bs _ a h.buffers.srcWf
  unfold storeSrc
  split
  · exact ⟨hsrcWf, Memory.wf_writeBytes _ _ _ h.buffers.dstWf, hsrc,
      Memory.within_writeBytes _ _ _ _ (by simpa using h.dstLen_le) h.buffers.dstWithin⟩
  · exact ⟨hsrcWf, h.buffers.dstWf, hsrc, h.buffers.dstWithin⟩

theorem Legal.putSrc {s : State} (h : Legal s) (a : Len) (bs : List Byte) :
    NextLegal (putSrc a bs s) := by
  obtain ⟨-, he⟩ | ⟨hb, hr, he⟩ | ⟨-, -, he⟩ := putSrc_cases a bs s <;> rw [he]
  · simp
  · exact (nextLegal_next _).mpr (h.idleAccess hb (by simp) (by simp) (by simp) (by simp)
      (storeSrc_buffers h _ _ hr) fun w hw => ⟨w, by simpa using hw, id⟩)
  · simp

theorem Legal.putDst {s : State} (h : Legal s) (a : Len) (bs : List Byte) :
    NextLegal (putDst a bs s) := by
  obtain ⟨-, he⟩ | ⟨hb, hr, he⟩ | ⟨-, -, he⟩ := putDst_cases a bs s <;> rw [he]
  · simp
  · refine (nextLegal_next _).mpr (h.idleAccess hb rfl rfl rfl rfl ?_ fun w hw => ⟨w, hw, id⟩)
    exact ⟨h.buffers.srcWf, Memory.wf_writeBytes _ _ _ h.buffers.dstWf, h.buffers.srcWithin,
      Memory.within_writeBytes_of_inRange _ _ _ _ _ (by simp) hr h.buffers.dstWithin⟩
  · simp

theorem Legal.getDst {s : State} (h : Legal s) (a : Len) (n : Nat) : NextLegal (getDst a n s) := by
  obtain ⟨-, -, he⟩ | ⟨-, -, he⟩ | ⟨-, he⟩ := getDst_cases a n s <;> rw [he]
  · exact (nextLegal_next _).mpr (h.withHost _ _ _)
  · exact (nextLegal_next _).mpr (h.withHost _ _ _)
  · simp

theorem Legal.getSrc {s : State} (h : Legal s) (a : Len) (n : Nat) : NextLegal (getSrc a n s) := by
  unfold Machine.getSrc
  split
  · exact (nextLegal_next _).mpr (h.withHost _ _ _)
  · simp

theorem legal_assertReset (s : State) : Legal (assertReset s) where
  buffers := ⟨rfl, rfl, rfl, rfl⟩
  status := by simp [legalStatuses]
  busy_eq := by simp
  err := fun _ => rfl
  busyWindow := fun hb => absurd hb (by simp)
  window := nofun
  dstLen_le := Nat.zero_le _
  seq := nofun

/-! ### The step -/

theorem Legal.exec {s : State} (h : Legal s) (i : Instr) : NextLegal (exec i s) := by
  obtain ⟨op, hi⟩ | ⟨a, bs, hi⟩ | ⟨n, x, hi⟩ := instr_kinds i
  · exact exec_of_operation i op s hi ▸ h.runOperation op
  · exact exec_of_datum i a bs s hi ▸ h.putSrc a bs
  · exact exec_of_register i n x s hi ▸ h.accessReg n x

theorem Legal.execUndecoded {s : State} (h : Legal s) (r : Request) : NextLegal (execUndecoded r s) := by
  cases r with
  | cmd _ => exact (nextLegal_next _).mpr h
  | regRead n => exact h.accessReg n .read
  | regWrite n v => exact h.accessReg n (.write v)
  | put _ a bs => exact h.putSrc a bs

theorem Legal.execRequest {s : State} (h : Legal s) (r : Request) : NextLegal (execRequest r s) := by
  unfold Machine.execRequest
  split
  next i _ => exact h.exec i
  next => exact h.execUndecoded r

theorem Legal.hostMove {s : State} (h : Legal s) (a : HostAction) : NextLegal (hostMove a s) := by
  cases a with
  | request r => exact h.execRequest r
  | getDst a n => exact h.getDst a n
  | getSrc a n => exact h.getSrc a n
  | putDst a bs => exact h.putDst a bs
  | wait =>
    rw [Machine.hostMove]
    split
    · exact (nextLegal_next _).mpr (h.withHost _ _ _).coreMove
    · exact h.accessReg 1 .read
  | idle => exact (nextLegal_next _).mpr h.coreMove
  | reset => exact (nextLegal_next _).mpr (legal_assertReset s)

theorem Legal.step {s : State} (h : Legal s) : NextLegal (step s) := by
  cases hs : s.script with
  | nil => exact step_of_nil s hs ▸ (nextLegal_next _).mpr h.coreMove
  | cons a rest => exact step_of_cons s a rest hs ▸ (h.withHost rest s.hostIn s.freeCtr).hostMove a

end Sys2Proof.Machine

section

open Sys2Proof Sys2Proof.Machine

/-- Settles O53, by the clauses of the invariant (`inv_iff`) and the cases of the step (`Legal.step`). -/
theorem stepKeepsInvariant : Obligations.StepKeepsInvariant := by
  intro s t hs ht
  rw [inv_iff] at hs ⊢
  exact hs.step t ht

/-- Settles O52: every clause is computed. -/
theorem resetHasInvariant : Obligations.ResetHasInvariant := by
  unfold Obligations.ResetHasInvariant
  decide

end

/-! What an operation reads (spec/10_state.md R34): its operand registers, the parameters and `SRC[0 .. SRC_LEN-1]`. -/

namespace Sys2Proof.Machine

/-! ### The codecs read inside their input -/

theorem gather_congr {p p' : Nat → Byte} {w h : Nat} (hw : 0 < w) (hh : 0 < h)
    (hp : ∀ a, a < w * h → p a = p' a) : gather p w h = gather p' w h := by
  funext br bc
  refine List.map_congr_left fun k _ => hp _ ?_
  exact rowMajor_lt w h _ _ (by omega) (by omega)

theorem plnEncodeBlock_congr (tie : ModeTie) {p p' : Nat → Byte} {w h : Nat} (hw : 0 < w) (hh : 0 < h)
    (hp : ∀ a, a < w * h → p a = p' a) : plnEncodeBlock tie p w h = plnEncodeBlock tie p' w h := by
  funext k
  rw [plnEncodeBlock, plnEncodeBlock, gather_congr hw hh hp]

theorem imgEncodePair_congr (tie : ModeTie) {t t' : Nat → Byte} {w h : Nat} (hw : 0 < w) (hh : 0 < h)
    (ht : ∀ a, a < 4 * w * h → t a = t' a) : imgEncodePair tie t w h = imgEncodePair tie t' w h := by
  have hplane : ∀ c, c < 2 → ∀ a, a < w * h → channelPlane t c a = channelPlane t' c a :=
    fun c hc a ha => ht _ (by rw [Nat.mul_assoc]; omega)
  funext k
  rw [imgEncodePair, imgEncodePair, plnEncodeBlock_congr tie hw hh (hplane 0 (by decide)),
    plnEncodeBlock_congr tie hw hh (hplane 1 (by decide))]

theorem plnDecodeSample_congr {e e' : Nat → Byte} {w h x y : Nat} (hx : x < w) (hy : y < h)
    (he : ∀ a, a < 8 * (cdiv4 w * cdiv4 h) → e a = e' a) :
    plnDecodeSample e w x y = plnDecodeSample e' w x y := by
  have hpos := rowMajor_lt _ _ _ _ (div_four_lt_cdiv4 x w hx) (div_four_lt_cdiv4 y h hy)
  have hbytes : (List.range 8).map (fun i => e (addrPb (cdiv4 w) (y / 4) (x / 4) + i)) =
      (List.range 8).map fun i => e' (addrPb (cdiv4 w) (y / 4) (x / 4) + i) :=
    List.map_congr_left fun i hi => he _ (by rw [List.mem_range] at hi; unfold addrPb; omega)
  rw [plnDecodeSample, plnDecodeSample, hbytes]

/-- Pixel `p` of a `w` by `h` image has its coordinates inside it. -/
theorem coords_lt {w h p : Nat} (hp : p < w * h) : p % w < w ∧ p / w < h :=
  ⟨Nat.mod_lt _ (Nat.pos_of_mul_pos_right (Nat.zero_lt_of_lt hp)), Nat.div_lt_of_lt_mul hp⟩

theorem plnDecode_congr {e e' : Nat → Byte} {w h : Nat}
    (he : ∀ a, a < 8 * (cdiv4 w * cdiv4 h) → e a = e' a) : plnDecode e w h = plnDecode e' w h := by
  refine List.map_congr_left fun p hp => ?_
  obtain ⟨hx, hy⟩ := coords_lt (List.mem_range.mp hp)
  exact plnDecodeSample_congr hx hy he

theorem imgDecodePixel_congr (half : RoundHalf) (mode : BitVec 2) {t t' : Nat → Byte} {w h p : Nat}
    (hp : p < w * h) (ht : ∀ a, a < 12 + 16 * (cdiv4 w * cdiv4 h) → t a = t' a) :
    imgDecodePixel half mode t w p = imgDecodePixel half mode t' w p := by
  obtain ⟨hx, hy⟩ := coords_lt hp
  have hsample : ∀ ch, ch < 2 →
      imgDecodeSample t w ch (p % w) (p / w) = imgDecodeSample t' w ch (p % w) (p / w) :=
    fun ch hch => plnDecodeSample_congr hx hy fun a ha => ht _ (by omega)
  rw [imgDecodePixel, imgDecodePixel, hsample 0 (by decide), hsample 1 (by decide)]

/-! ### Operands -/

/-- Equal operand registers, parameters and `SRC[0 .. SRC_LEN-1]` (R34). -/
structure SameOperands (s t : State) : Prop where
  width : s.width = t.width
  height : s.height = t.height
  blueMode : s.blueMode = t.blueMode
  srcLen : s.srcLen = t.srcLen
  params : s.params = t.params
  src : ∀ a, a < s.srcLen.toNat → s.srcByte a = t.srcByte a

theorem SameOperands.srcBytes {s t : State} (h : SameOperands s t) {n : Nat} (hn : n ≤ s.srcLen.toNat) :
    s.srcBytes 0 n = t.srcBytes 0 n :=
  List.map_congr_left fun i hi => h.src _ (by rw [List.mem_range] at hi; omega)

theorem SameOperands.srcHeader {s t : State} (h : SameOperands s t) : s.srcHeader = t.srcHeader := by
  unfold State.srcHeader
  rw [← h.srcLen]
  exact ite_congr rfl (fun _ => rfl) fun hlen => by rw [h.srcBytes (by omega)]

theorem le_srcLen_of_srcHeader {s : State} {d : Dim × Dim} (h : s.srcHeader = some d) :
    12 ≤ s.srcLen.toNat := by
  unfold State.srcHeader at h
  split at h
  · cases h
  · omega

/-- An operation's rule is a function of its operands (R34). -/
theorem opBody_congr (op : Op) {s t : State} (h : SameOperands s t) : opBody op s = opBody op t := by
  have hin : s.inputTooLong = t.inputTooLong := by
    rw [State.inputTooLong, State.inputTooLong, h.params, h.srcLen]
  have hout : s.outputTooLong = t.outputTooLong := by
    funext n; rw [State.outputTooLong, State.outputTooLong, h.params]
  cases op with
  | hdrEnc => simp only [opBody, hdrEncBody, hout, h.width, h.height]
  | hdrDec => simp only [opBody, hdrDecBody, hin, h.srcHeader]
  | illegal => rfl
  | blkEnc =>
    simp only [opBody, blkEncBody, hin, hout, ← h.srcLen, ← h.params]
    refine ite_congr rfl (fun _ => rfl) fun _ => ite_congr rfl (fun _ => rfl) fun hlen => ?_
    rw [h.srcBytes (n := 16) (by omega)]
  | blkDec =>
    simp only [opBody, blkDecBody, hin, hout, ← h.srcLen]
    refine ite_congr rfl (fun _ => rfl) fun _ => ite_congr rfl (fun _ => rfl) fun hlen => ?_
    rw [h.srcBytes (n := 8) (by omega)]
  | blue =>
    simp only [opBody, blueBody, hin, hout, ← h.srcLen, ← h.params, ← h.blueMode]
    refine ite_congr rfl (fun _ => rfl) fun _ => ite_congr rfl (fun _ => rfl) fun hlen => ?_
    rw [h.src 0 (by omega), h.src 1 (by omega)]
  | plnEnc =>
    simp only [opBody, plnEncBody, hin, hout, ← h.srcLen, ← h.params, ← h.width, ← h.height]
    refine ite_congr rfl (fun _ => rfl) fun _ => ite_congr rfl (fun _ => rfl) fun hz =>
      ite_congr rfl (fun _ => rfl) fun hlen => ?_
    obtain ⟨hw, hh⟩ := zeroArea_eq_false hz
    rw [plnEncode, plnEncode, plnEncodeBlock_congr _ hw hh fun a ha => h.src a (by omega)]
  | plnDec =>
    simp only [opBody, plnDecBody, hin, hout, ← h.srcLen, ← h.width, ← h.height]
    refine ite_congr rfl (fun _ => rfl) fun _ => ite_congr rfl (fun _ => rfl) fun _ =>
      ite_congr rfl (fun _ => rfl) fun hlen => ?_
    rw [plnDecode_congr fun a ha => h.src a (by unfold blockCount at hlen; omega)]
  | imgEnc =>
    simp only [opBody, imgEncBody, hin, hout, ← h.srcLen, ← h.params, ← h.width, ← h.height]
    refine ite_congr rfl (fun _ => rfl) fun _ => ite_congr rfl (fun _ => rfl) fun hz =>
      ite_congr rfl (fun _ => rfl) fun hlen => ?_
    obtain ⟨hw, hh⟩ := zeroArea_eq_false hz
    rw [imgEncode, imgEncode, imgEncodePair_congr _ hw hh fun a ha => h.src a (by omega)]
  | imgDec =>
    simp only [opBody, imgDecBody, hin, hout, ← h.srcHeader, ← h.srcLen, ← h.params, ← h.blueMode]
    refine ite_congr rfl (fun _ => rfl) fun _ => ?_
    cases hd : s.srcHeader with
    | none => rfl
    | some d =>
      have h12 := le_srcLen_of_srcHeader hd
      refine ite_congr rfl (fun _ => rfl) fun _ => ite_congr rfl (fun _ => rfl) fun hlen => ?_
      have hpixels : imgDecode s.params.roundHalf s.blueMode s.srcByte d.1.toNat d.2.toNat =
          imgDecode s.params.roundHalf s.blueMode t.srcByte d.1.toNat d.2.toNat :=
        List.flatMap_congr fun p hp => imgDecodePixel_congr _ _ (List.mem_range.mp hp) fun a ha =>
          h.src a (by unfold blockCount at hlen; omega)
      rw [hpixels]

/-- What an operation starts from is untouched by STATUS, DST_LEN, DST, SEQ, the window and the HOST's own fields. -/
theorem SameOperands.of_eq {s t : State} (hw : t.width = s.width) (hh : t.height = s.height)
    (hb : t.blueMode = s.blueMode) (hl : t.srcLen = s.srcLen) (hp : t.params = s.params)
    (hs : t.src = s.src) (he : t.epoch = s.epoch) : SameOperands s t :=
  ⟨hw.symm, hh.symm, hb.symm, hl.symm, hp.symm, fun a _ => by rw [State.srcByte, State.srcByte, hs, he]⟩

end Sys2Proof.Machine

/-! The frame of an operation (spec/10_state.md R37, R38): the moves of the CORE and the atomic transition. -/

namespace Sys2Proof.Machine

theorem keepsInputs_finish (r : Except ErrKind Completion) (s : State) : keepsInputs s (finish r s) := by
  cases r <;> exact ⟨rfl, rfl, rfl, rfl, rfl, rfl, rfl, rfl⟩

theorem keepsInputs_coreMove (s : State) : keepsInputs s (coreMove s) := by
  obtain ⟨-, h⟩ | ⟨_, _, -, -, h⟩ | ⟨_, _, -, -, -, h⟩ | ⟨_, _, -, -, -, h⟩ | ⟨_, _, -, -, -, h⟩ :=
    coreMove_cases s <;> rw [h] <;> exact ⟨rfl, rfl, rfl, rfl, rfl, rfl, rfl, rfl⟩

/-- While the operation goes on, a move changes DST and SEQ alone. -/
theorem coreMove_running (s : State) (hr : (coreMove s).seq ≠ none) :
    coreMove s = { s with dst := (coreMove s).dst, seq := (coreMove s).seq } := by
  obtain ⟨-, h⟩ | ⟨_, _, -, -, h⟩ | ⟨_, _, -, -, -, h⟩ | ⟨_, _, -, -, -, h⟩ | ⟨_, _, -, -, -, h⟩ :=
    coreMove_cases s <;> rw [h] at hr ⊢
  · exact absurd rfl hr
  · exact absurd rfl hr

end Sys2Proof.Machine

section

open Sys2Proof Sys2Proof.Machine

/-- Settles O50, by the cases of a move (`keepsInputs_coreMove`, `coreMove_running`). -/
theorem coreMoveFrame : Obligations.CoreMoveFrame := fun s => ⟨keepsInputs_coreMove s, coreMove_running s⟩

end

/-! The two-step operation (spec/10_state.md R30, R36, R38): the visits of the grid, one after another, leave in DST
what the atomic operation leaves. -/

namespace Sys2Proof.Machine

/-! ### The operation a CMD value starts -/

theorem opOfCmd_of_reserved {c : BitVec 32} (h : c.toNat = 0 ∨ 10 ≤ c.toNat) : opOfCmd c = .illegal := by
  unfold opOfCmd
  generalize c.toNat = n at h
  obtain rfl | h := h
  · rfl
  · obtain ⟨k, rfl⟩ := Nat.exists_eq_add_of_le' h
    rfl

/-- The CMD row that a value decodes to is the one of the operation that a write of it to CMD starts (R25). -/
theorem operation_decodeCmd (c : BitVec 32) : (decodeCmd c).operation = some (opOfCmd c) := by
  have hhi : (c.extractLsb' 4 28).toNat = c.toNat / 16 := by
    rw [BitVec.extractLsb'_toNat, Nat.shiftRight_eq_div_pow]; omega
  have hlo : (c.extractLsb' 0 4).toNat = c.toNat % 16 := by
    rw [BitVec.extractLsb'_toNat, Nat.shiftRight_zero]
  unfold decodeCmd
  split
  next hne =>
    have : c.toNat / 16 ≠ 0 := fun h0 => hne (BitVec.eq_of_toNat_eq (hhi.trans h0))
    rw [opOfCmd_of_reserved (by omega)]
    rfl
  next heq =>
    have h0 : c.toNat / 16 = 0 := by rw [← hhi, not_not.mp heq]; rfl
    have hlt : c.toNat < 16 := by omega
    rw [hlo, Nat.mod_eq_of_lt hlt]
    unfold opOfCmd
    generalize c.toNat = n at hlt
    interval_cases n <;> rfl

/-! ### Runs of the CORE -/

theorem run_succ_of_step (k : Nat) {s t : State} (h : step s = .next t) :
    Host.Core.run Sys2Proof.core (k + 1) s = Host.Core.run Sys2Proof.core k t :=
  have hrun : ∀ (M : Host.Core) (a b : M.State), M.step a = .next b → M.run (k + 1) a = M.run k b :=
    fun _ _ _ hab => by rw [Host.Core.run, hab]
  hrun Sys2Proof.core s t h

theorem run_of_nil (k : Nat) (s : State) (h : s.script = []) :
    Host.Core.run Sys2Proof.core k s = .next (coreMove^[k] s) := by
  induction k generalizing s with
  | zero => rfl
  | succ k ih =>
    obtain ⟨-, -, -, -, hscript, -⟩ := keepsInputs_coreMove s
    exact (run_succ_of_step k (step_of_nil s h)).trans (ih _ (hscript.trans h))

/-- An idle write of CMD is the start step (R25, R36). -/
theorem writeReg_cmd {s : State} (hb : s.busy = false) (v : Nat) :
    s.writeReg 0 v = startOperation (opOfCmd (BitVec.ofNat 32 v)) s := by simp [State.writeReg, hb]

/-- A write of a value to CMD is the start step, after which the CORE moves. -/
theorem run_regWrite_cmd (s : State) (v k : Nat) (hb : s.busy = false) (hs : s.script = []) :
    Host.Core.run Sys2Proof.core (k + 1) { s with script := [.request (.regWrite 0 v)] } =
      .next (coreMove^[k] (startOperation (opOfCmd (BitVec.ofNat 32 v)) s)) := by
  have hself : ({ s with script := [] } : State) = s := by rw [← hs]
  have hstep : step { s with script := [.request (.regWrite 0 v)] } = .next (s.writeReg 0 v) := by
    rw [step_of_cons _ (.request (.regWrite 0 v)) [] rfl, hself]
    rfl
  exact (run_succ_of_step k (hstep.trans (congrArg _ (writeReg_cmd hb v)))).trans (run_of_nil k _ hs)

/-! ### Every output byte is visited -/

theorem exists_mem_cellsAt (a : Nat) (bs : List Byte) {i : Nat} (hi : i < bs.length) :
    ∃ x ∈ cellsAt a bs, x.1 = a + i :=
  ⟨(a + i, bs[i]), (mem_cellsAt _ _ _).mpr ⟨i, rfl, List.getElem?_eq_getElem hi⟩, rfl⟩

/-- Every component of a pixel is written at the visit of one of the two channels (R204). -/
theorem exists_mem_imgDecCells (s : State) (w x y : Nat) {k : Nat} (hk : k < 4) :
    ∃ ch, ch < 2 ∧ ∃ z ∈ imgDecCells s w ch x y, z.1 = addrPx w x y k := by
  obtain rfl | rfl | rfl | rfl : k = 0 ∨ k = 1 ∨ k = 2 ∨ k = 3 := by omega
  · exact ⟨0, by decide, _, List.mem_cons_self, rfl⟩
  · exact ⟨1, by decide, _, List.mem_cons_self, rfl⟩
  · exact ⟨1, by decide, _, List.mem_cons_of_mem _ List.mem_cons_self, rfl⟩
  · exact ⟨1, by decide, _, List.mem_cons_of_mem _ (List.mem_cons_of_mem _ List.mem_cons_self), rfl⟩

/-- Item `p` of a row-major grid, by its row and its column. -/
theorem exists_rowMajor {w h p : Nat} (hp : p < w * h) : ∃ y x, y < h ∧ x < w ∧ y * w + x = p := by
  obtain ⟨hx, hy⟩ := coords_lt hp
  exact ⟨p / w, p % w, hy, hx, Nat.div_add_mod' p w⟩

/-- The visits of the grid write every byte of the output (R30, R32). -/
theorem visitCells_cover {op : Op} {s : State} {c : Completion} (h : opBody op s = .ok c) {a : Nat}
    (ha : a < c.len) :
    ∃ br bc ch, inGrid (s.grid op) br bc ch ∧ ∃ x ∈ s.visitCells op br bc ch, x.1 = a := by
  cases op with
  | hdrEnc | hdrDec | blkEnc | blkDec | blue | illegal =>
    refine ⟨0, 0, 0, ⟨Nat.one_pos, Nat.one_pos, Nat.one_pos⟩, ?_⟩
    simp only [State.visitCells, h]
    obtain ⟨x, hx, he⟩ := exists_mem_cellsAt 0 c.out (i := a) (by rwa [(opBody_ok_spec _ s c h).1])
    exact ⟨x, hx, by rw [he, Nat.zero_add]⟩
  | plnEnc =>
    have ha : a < 8 * (cdiv4 s.width.toNat * cdiv4 s.height.toNat) := by rwa [plnEncBody_ok h] at ha
    obtain ⟨br, bc, hr, hc, hp⟩ := exists_rowMajor (p := a / 8) (Nat.div_lt_of_lt_mul ha)
    refine ⟨br, bc, 0, ⟨hr, hc, Nat.one_pos⟩, ?_⟩
    obtain ⟨x, hx, he⟩ := exists_mem_cellsAt (addrPb (cdiv4 s.width.toNat) br bc)
      (blkEncode s.params.modeTie (gather s.srcByte s.width.toNat s.height.toNat br bc)) (i := a % 8)
      (by rw [blkEncode_length]; omega)
    exact ⟨x, hx, by rw [he, addrPb, hp, Nat.div_add_mod]⟩
  | plnDec =>
    rw [plnDecBody_ok h] at ha
    obtain ⟨y, x, hy, hx, hp⟩ := exists_rowMajor ha
    exact ⟨y / 4, x / 4, 0, ⟨div_four_lt_cdiv4 y _ hy, div_four_lt_cdiv4 x _ hx, Nat.one_pos⟩, _,
      List.mem_map_of_mem ((mem_blockPixels _ _ _ _ (x, y)).mpr ⟨hx, hy, rfl, rfl⟩), hp⟩
  | imgEnc =>
    have ha : a < 12 + 16 * (cdiv4 s.width.toNat * cdiv4 s.height.toNat) := by rwa [imgEncBody_ok h] at ha
    by_cases hhdr : a < 12
    · obtain ⟨x, hx, he⟩ := exists_mem_cellsAt 0 (hdrBytes s.width s.height) (i := a) hhdr
      refine ⟨0, 0, 0, opBody_ok_grid_pos h, x, List.mem_append_left _ ?_, by rw [he, Nat.zero_add]⟩
      rw [headerCells, if_pos ⟨rfl, rfl, rfl⟩]
      exact hx
    · obtain ⟨br, bc, hr, hc, hp⟩ := exists_rowMajor (p := (a - 12) / 16)
        (Nat.div_lt_of_lt_mul (by omega : a - 12 < 16 * (cdiv4 s.width.toNat * cdiv4 s.height.toNat)))
      have hch : (a - 12) % 16 / 8 < 2 := by omega
      refine ⟨br, bc, (a - 12) % 16 / 8, ⟨hr, hc, hch⟩, ?_⟩
      obtain ⟨x, hx, he⟩ := exists_mem_cellsAt
        (addrSb (cdiv4 s.width.toNat) br bc ((a - 12) % 16 / 8))
        (blkEncode s.params.modeTie
          (gather (channelPlane s.srcByte ((a - 12) % 16 / 8)) s.width.toNat s.height.toNat br bc))
        (i := (a - 12) % 8) (by rw [blkEncode_length]; omega)
      exact ⟨x, List.mem_append_right _ hx, by rw [he, addrSb, hp]; omega⟩
  | imgDec =>
    obtain ⟨d, hd, -, rfl⟩ := imgDecBody_ok h
    obtain ⟨y, x, hy, hx, hp⟩ := exists_rowMajor (w := d.1.toNat) (h := d.2.toNat) (p := a / 4)
      (Nat.div_lt_of_lt_mul (by rwa [← Nat.mul_assoc]))
    have hpx := (mem_blockPixels d.1.toNat d.2.toNat _ _ (x, y)).mpr ⟨hx, hy, rfl, rfl⟩
    have haddr : addrPx d.1.toNat x y (a % 4) = a := by rw [addrPx, hp, Nat.div_add_mod]
    have hgrid : s.grid .imgDec = (cdiv4 d.2.toNat, cdiv4 d.1.toNat, 2) := by
      simp only [State.grid, State.gridDims, hd, Option.getD_some]
    obtain ⟨ch, hch, z, hz, he⟩ := exists_mem_imgDecCells s d.1.toNat x y (Nat.mod_lt a (by decide : 0 < 4))
    refine ⟨y / 4, x / 4, ch, ?_, z, ?_, he.trans haddr⟩
    · rw [hgrid]
      exact ⟨div_four_lt_cdiv4 y _ hy, div_four_lt_cdiv4 x _ hx, hch⟩
    · simp only [State.visitCells, State.gridDims, hd, Option.getD_some]
      exact List.mem_flatMap_of_mem hpx hz

end Sys2Proof.Machine

namespace Sys2Proof.Machine

/-! ### The visits one after another -/

/-- Where every cell holds what `f` says of its address, so does the memory they are written to. -/
theorem Memory.read_writeCells_of_mem (f : Nat → Option Byte) (cs : List (Nat × Byte)) (m : Memory)
    (hm : m.wf = true) (hf : ∀ x ∈ cs, f x.1 = some x.2) {x : Nat × Byte} (hx : x ∈ cs) :
    Memory.read (Memory.writeCells m cs) x.1 = f x.1 := by
  induction cs generalizing m x with
  | nil => cases hx
  | cons y cs ih =>
    have hwf := Memory.wf_write m y.1 y.2 hm
    have hcs : ∀ z ∈ cs, f z.1 = some z.2 := fun z hz => hf z (List.mem_cons_of_mem _ hz)
    rw [Memory.writeCells]
    by_cases hlater : ∃ z ∈ cs, z.1 = x.1
    · obtain ⟨z, hz, he⟩ := hlater
      exact he ▸ ih _ hwf hcs hz
    · have hne : ∀ z ∈ cs, z.1 ≠ x.1 := fun z hz he => hlater ⟨z, hz, he⟩
      obtain rfl : x = y := (List.mem_cons.mp hx).resolve_right fun hmem => hne x hmem rfl
      rw [Memory.read_writeCells_outside cs _ _ hwf hne, Memory.read_write m x.1 x.1 x.2 0 hm, if_pos rfl,
        hf x List.mem_cons_self]

/-- The sequencer has left `(br, bc, ch)` behind: channel fastest, then block column, then block row (R30). -/
def Seq.visited (q : Seq) (br bc ch : Nat) : Prop :=
  q.phase = .complete ∨ br < q.br ∨ br = q.br ∧ (bc < q.bc ∨ bc = q.bc ∧ ch < q.ch)

/-- A visit adds its own position to those left behind. -/
theorem visited_of_advance {g : Nat × Nat × Nat} {q : Seq} (hp : q.phase = .run)
    (h : inGrid g q.br q.bc q.ch) {br bc ch : Nat} (hg : inGrid g br bc ch)
    (hv : (q.advance g).visited br bc ch) :
    q.visited br bc ch ∨ br = q.br ∧ bc = q.bc ∧ ch = q.ch := by
  obtain ⟨hr, hc, hch⟩ := hg
  obtain ⟨he, -⟩ | ⟨_, he, -⟩ | ⟨_, _, he, -⟩ | ⟨_, _, _, he⟩ := advance_cases h <;>
    simp only [he, Seq.visited, hp, reduceCtorEq, false_or] at hv ⊢ <;> omega

/-- The memory `m` after the visits before `q`: the output's bytes where they wrote, the rest of `s.dst` beyond the
output's end. -/
structure VisitedTo (s : State) (c : Completion) (q : Seq) (m : Memory) : Prop where
  wf : m.wf = true
  outside : ∀ a, c.len ≤ a → m.read a = s.dst.read a
  inside : ∀ br bc ch, inGrid (s.grid q.op) br bc ch → q.visited br bc ch →
    ∀ x ∈ s.visitCells q.op br bc ch, m.read x.1 = c.out[x.1]?

theorem visitedTo_start {s : State} (hwf : s.dst.wf = true) (c : Completion) (op : Op) :
    VisitedTo s c { op := op, phase := .run, br := 0, bc := 0, ch := 0 } s.dst where
  wf := hwf
  outside := fun _ _ => rfl
  inside := fun br bc ch _ hv => absurd hv (by simp [Seq.visited])

theorem VisitedTo.visit {s : State} {c : Completion} {q : Seq} {m : Memory} (h : VisitedTo s c q m)
    (ho : opBody q.op s = .ok c) (hp : q.phase = .run) (hg : inGrid (s.grid q.op) q.br q.bc q.ch) :
    VisitedTo s c (q.advance (s.grid q.op)) (m.writeCells (s.visitCells q.op q.br q.bc q.ch)) := by
  have hop : (q.advance (s.grid q.op)).op = q.op := by
    obtain ⟨he, -⟩ | ⟨_, he, -⟩ | ⟨_, _, he, -⟩ | ⟨_, _, _, he⟩ := advance_cases hg <;> rw [he]
  refine ⟨Memory.wf_writeCells _ _ h.wf, fun a ha => ?_, fun br bc ch hgp hv x hx => ?_⟩
  · rw [Memory.read_writeCells_outside _ _ _ h.wf fun x hx he => ?_, h.outside a ha]
    obtain ⟨hlt, -⟩ := List.getElem?_eq_some_iff.mp (visitCells_agree ho hg hx)
    rw [(opBody_ok_spec _ s c ho).1] at hlt
    omega
  · rw [hop] at hgp hx
    by_cases hnew : ∃ y ∈ s.visitCells q.op q.br q.bc q.ch, y.1 = x.1
    · obtain ⟨y, hy, he⟩ := hnew
      exact he ▸ Memory.read_writeCells_of_mem (fun a => c.out[a]?) _ _ h.wf
        (fun z hz => visitCells_agree ho hg hz) hy
    · rw [Memory.read_writeCells_outside _ _ _ h.wf fun y hy he => hnew ⟨y, hy, he⟩]
      obtain hbefore | ⟨rfl, rfl, rfl⟩ := visited_of_advance hp hg hgp hv
      · exact h.inside br bc ch hgp hbefore x hx
      · exact absurd ⟨x, hx, rfl⟩ hnew

/-- After the last visit DST holds the whole output (R32). -/
theorem VisitedTo.eq_writeBytes {s : State} {c : Completion} {q : Seq} {m : Memory} (h : VisitedTo s c q m)
    (ho : opBody q.op s = .ok c) (hwf : s.dst.wf = true) (hp : q.phase = .complete) :
    m = s.dst.writeBytes 0 c.out := by
  refine Memory.ext_of_wf _ _ h.wf (Memory.wf_writeBytes _ _ _ hwf) fun a => ?_
  have hlen := (opBody_ok_spec _ s c ho).1
  rw [Memory.read_writeBytes _ _ _ _ hwf]
  split
  next ha =>
    obtain ⟨br, bc, ch, hg, x, hx, rfl⟩ := visitCells_cover ho (a := a) (by omega)
    have hxa := visitCells_agree ho hg hx
    rw [h.inside br bc ch hg (.inl hp) x hx, Nat.sub_zero, List.getD_eq_getElem?_getD, hxa, Option.getD_some]
  next ha => exact h.outside a (by omega)

/-- The operands stand while the operation goes on. -/
theorem opBody_moving (op : Op) (s : State) (m : Memory) (q : Option Seq) :
    opBody op { s with dst := m, seq := q } = opBody op s :=
  opBody_congr op (.of_eq (t := s) rfl rfl rfl rfl rfl rfl rfl)

theorem visitCells_moving (op : Op) (s : State) (m : Memory) (q : Option Seq) (br bc ch : Nat) :
    ({ s with dst := m, seq := q } : State).visitCells op br bc ch = s.visitCells op br bc ch := by
  have hbody := opBody_moving op s m q
  cases op <;> simp only [State.visitCells, hbody] <;> rfl

/-- A visit, in a state that is on its way through the grid. -/
theorem coreMove_of_run {s : State} {c : Completion} {q : Seq} (m : Memory) (ho : opBody q.op s = .ok c)
    (hp : q.phase = .run) :
    coreMove { s with dst := m, seq := some q } = { s with
      dst := m.writeCells (s.visitCells q.op q.br q.bc q.ch)
      seq := some (q.advance (s.grid q.op)) } := by
  simp only [coreMove, coreMoveAt, opBody_moving, ho, hp, visitCells_moving]
  rfl

/-- The completion step, in such a state. -/
theorem coreMove_of_complete {s : State} {c : Completion} {q : Seq} (m : Memory)
    (ho : opBody q.op s = .ok c) (hp : q.phase = .complete) :
    coreMove { s with dst := m, seq := some q } = commitRegisters c { s with dst := m, seq := some q } := by
  simp only [coreMove, coreMoveAt, opBody_moving, ho, hp]

/-- From a position of the grid the CORE reaches the state that the atomic operation ends in. -/
theorem coreMoves_commit {s : State} {c : Completion} (q : Seq) (m : Memory) (ho : opBody q.op s = .ok c)
    (hwf : s.dst.wf = true) (hp : q.phase = .run) (hg : inGrid (s.grid q.op) q.br q.bc q.ch)
    (hv : VisitedTo s c q m) :
    ∃ k, coreMove^[k] { s with dst := m, seq := some q } = commitRegisters c (storeOutput c s) := by
  suffices hrest : ∃ k, coreMove^[k] { s with
      dst := m.writeCells (s.visitCells q.op q.br q.bc q.ch)
      seq := some (q.advance (s.grid q.op)) } = commitRegisters c (storeOutput c s) by
    obtain ⟨k, hk⟩ := hrest
    exact ⟨k + 1, by rw [Function.iterate_succ_apply, coreMove_of_run m ho hp, hk]⟩
  have hnext := hv.visit ho hp hg
  obtain ⟨he, hg'⟩ | ⟨_, he, hg'⟩ | ⟨_, _, he, hg'⟩ | ⟨_, _, _, he⟩ := advance_cases hg <;> rw [he] at hnext ⊢
  · exact coreMoves_commit _ _ ho hwf hp hg' hnext
  · exact coreMoves_commit _ _ ho hwf hp hg' hnext
  · exact coreMoves_commit _ _ ho hwf hp hg' hnext
  · refine ⟨1, ?_⟩
    rw [Function.iterate_one, coreMove_of_complete (q := { q with phase := .complete }) _ ho rfl,
      hnext.eq_writeBytes ho hwf rfl]
    rfl
termination_by ((s.grid q.op).1 - q.br, (s.grid q.op).2.1 - q.bc, (s.grid q.op).2.2 - q.ch)
decreasing_by
  all_goals
    obtain ⟨hr, hc, hch⟩ := hg
    simp only [Prod.lex_def, true_and]
    omega

/-- The start step and then moves of the CORE reach the state in which the atomic operation ends (R36, R38). -/
theorem coreMoves_finish (op : Op) {s : State} (hwf : s.dst.wf = true) :
    ∃ k, coreMove^[k] (startOperation op s) = finish (opBody op s) s := by
  have hbody : opBody op (startOperation op s) = opBody op s :=
    opBody_congr op (.of_eq (t := s) rfl rfl rfl rfl rfl rfl rfl)
  cases ho : opBody op s with
  | error e =>
    have hmove : coreMove (startOperation op s) = raiseError e (startOperation op s) := by
      simp only [coreMove, startOperation_seq, coreMoveAt, hbody, ho]
    exact ⟨1, hmove⟩
  | ok c =>
    rw [ho] at hbody
    have hcheck : coreMove (startOperation op s) = { startOperation op s with
        seq := some { op := op, phase := .run, br := 0, bc := 0, ch := 0 } } := by
      simp only [coreMove, startOperation_seq, coreMoveAt, hbody]
    obtain ⟨k, hk⟩ := coreMoves_commit { op := op, phase := .run, br := 0, bc := 0, ch := 0 } _ hbody hwf rfl
      (opBody_ok_grid_pos hbody) (visitedTo_start (s := startOperation op s) hwf c op)
    exact ⟨k + 1, by rw [Function.iterate_succ_apply, hcheck]; exact hk⟩

end Sys2Proof.Machine

section

open Sys2Proof Sys2Proof.Machine

/-- Settles O51: the visits leave the atomic operation's output in DST (`VisitedTo`), whichever operation the value
selects (`operation_decodeCmd`). -/
theorem sequencerRefinesAtomic : Obligations.SequencerRefinesAtomic := by
  intro s t v hb hwf hs ht
  rw [exec_of_operation _ _ s (operation_decodeCmd _), runOperation_idle _ s hb] at ht
  obtain rfl := Host.Outcome.next.inj ht
  obtain ⟨k, hk⟩ := coreMoves_finish (opOfCmd (BitVec.ofNat 32 v)) hwf
  exact ⟨k, hk ▸ run_regWrite_cmd s v k hb hs⟩

end

/-! The atomic operation (spec/10_state.md R34, R36, R238; spec/60_exceptions.md R237): its frame, its end, and what it
is a function of. -/

namespace Sys2Proof.Machine

theorem exec_idle {i : Instr} {op : Op} {s : State} (h : i.operation = some op) (hb : s.busy = false) :
    exec i s = .next (finish (opBody op s) s) := by
  rw [exec_of_operation i op s h, runOperation_idle _ s hb]

theorem finish_window_isSome (r : Except ErrKind Completion) (s : State) :
    (finish r s).window.isSome = true := by cases r <;> rfl

theorem finish_busy (r : Except ErrKind Completion) (s : State) : (finish r s).busy = false := by
  cases r <;> simp

theorem finish_seq (r : Except ErrKind Completion) (s : State) : (finish r s).seq = none := by
  cases r <;> rfl

/-- WIDTH and HEIGHT are a decode's to write (R28). -/
theorem finish_dims {op : Op} {s : State} (hdr : op ≠ .hdrDec) (img : op ≠ .imgDec) :
    (finish (opBody op s) s).width = s.width ∧ (finish (opBody op s) s).height = s.height := by
  cases ho : opBody op s with
  | error e => exact ⟨rfl, rfl⟩
  | ok c =>
    have hdims : c.dims = none := by
      rw [← Option.isNone_iff_eq_none, ← Option.isSome_eq_false_iff, opBody_ok_dims_isSome ho]
      simp [hdr, img]
    simp [hdims]

/-- DST beyond the output is untouched (R32). -/
theorem finish_dst_beyond {op : Op} {s : State} {a : Nat}
    (ha : (finish (opBody op s) s).dstLen.toNat ≤ a) :
    (finish (opBody op s) s).dst.read a = s.dst.read a := by
  cases ho : opBody op s with
  | error e => rfl
  | ok c =>
    rw [ho, finish_ok, commitRegisters_dstLen, opBody_ok_len_toNat op s c ho] at ha
    exact Memory.read_writeBytes_of_outside _ _ _ _ (.inr (by rw [(opBody_ok_spec op s c ho).1]; omega))

/-- DST inside the output is the output (R32). -/
theorem finish_dst_output {op : Op} {s : State} {c : Completion} (ho : opBody op s = .ok c)
    (hwf : s.dst.wf = true) {a : Nat} (ha : a < c.len) :
    (finish (opBody op s) s).dst.read a = some (c.out.getD a 0#8) := by
  rw [ho, finish_ok, commitRegisters_dst, storeOutput_dst, Memory.read_writeBytes _ _ _ _ hwf,
    if_pos ⟨Nat.zero_le a, by rw [(opBody_ok_spec op s c ho).1]; omega⟩, Nat.sub_zero]

/-- An operation with ERR = 1 changed STATUS, DST_LEN, SEQ and the window alone (R237). -/
theorem finish_of_err {r : Except ErrKind Completion} {s : State}
    (h : statusErrBit (finish r s).status = true) :
    finish r s = { s with
      status := (finish r s).status, dstLen := 0#66, seq := none, window := some Window.plain } := by
  cases r with
  | error e => rfl
  | ok c => simp at h

theorem statusDoneErr_mem (e : ErrKind) :
    statusDoneErr e ∈ [0x16#32, 0x26#32, 0x36#32, 0x46#32] := by cases e <;> decide

/-- STATUS and DST_LEN are overwritten by the completion step, and read by no rule (R36, R238). -/
theorem finish_opBody_of_status (op : Op) (s : State) (st : BitVec 32) (len : Len) :
    finish (opBody op { s with status := st, dstLen := len }) { s with status := st, dstLen := len } =
      finish (opBody op s) s := by
  have hbody : opBody op { s with status := st, dstLen := len } = opBody op s :=
    opBody_congr op (.of_eq (t := s) rfl rfl rfl rfl rfl rfl rfl)
  rw [hbody]
  cases opBody op s <;> rfl

end Sys2Proof.Machine

section

open Sys2Proof Sys2Proof.Machine

/-- Settles O37, by the end that each operation has (`finish`): every clause is one of its laws. -/
theorem operationFrame : Obligations.OperationFrame := by
  intro i op s t hi hb _ ht
  rw [exec_idle hi hb] at ht
  obtain rfl := Host.Outcome.next.inj ht
  exact ⟨keepsInputs_finish _ s, finish_dims, fun _ => finish_dst_beyond, finish_window_isSome _ s,
    finish_of_err⟩

/-- Settles O38: the next state is `finish`, by either completion step. -/
theorem operationsEndReady : Obligations.OperationsEndReady := by
  intro i op s hi hb
  refine ⟨_, exec_idle hi hb, finish_busy _ s, finish_seq _ s, ?_, fun st len hst => ?_⟩
  · cases opBody op s with
    | error e => exact .inr ⟨rfl, statusDoneErr_mem e⟩
    | ok c => exact .inl rfl
  · rw [exec_idle (s := { s with status := st, dstLen := len }) hi hst, finish_opBody_of_status]

/-- Settles O39: the rule's result is the same in both states (`opBody_congr`), and the completion step commits it. -/
theorem equalInputsEqualOutputs : Obligations.EqualInputsEqualOutputs := by
  intro i op s s' t t' hi hb hb' hwf hwf' hw hh hm hl hp hsrc ht ht'
  rw [exec_idle hi hb] at ht
  rw [exec_idle hi hb'] at ht'
  obtain rfl := Host.Outcome.next.inj ht
  obtain rfl := Host.Outcome.next.inj ht'
  have hbody := opBody_congr op ⟨hw, hh, hm, hl, hp, hsrc⟩
  cases ho : opBody op s with
  | error e =>
    rw [← hbody, ho]
    exact ⟨rfl, hw, hh, hm, hl, rfl, nofun⟩
  | ok c =>
    have ho' := hbody.symm.trans ho
    have hout := @finish_dst_output op s c ho hwf
    have hout' := @finish_dst_output op s' c ho' hwf'
    rw [ho] at hout
    rw [ho'] at hout' ⊢
    refine ⟨rfl, ?_, ?_, hm, hl, rfl, fun a ha => ?_⟩
    · simp [hw]
    · simp [hh]
    · rw [finish_ok, commitRegisters_dstLen, opBody_ok_len_toNat op s c ho] at ha
      exact (hout ha).trans (hout' ha).symm

end

/-! Reset (spec/70_reset_and_hazards.md R260): the state of R35, and what an operation does in it. -/

namespace Sys2Proof.Machine

@[simp] theorem readReg_assertReset (s : State) (n : Nat) : (assertReset s).readReg n = 0 := by
  unfold State.readReg
  split <;> simp

@[simp] theorem readReg_reset (n : Nat) : State.reset.readReg n = 0 := readReg_assertReset State.reset n

theorem endsInError_of_body {i : Instr} {op : Op} {s : State} {e : ErrKind} (hi : i.operation = some op)
    (hb : s.busy = false) (ho : opBody op s = .error e) : endsInError i s (statusDoneErr e) := by
  rw [endsInError, exec_idle hi hb, ho]
  rfl

/-- The successful end of an operation, by its completion (R36). -/
theorem succeeds_of_body {i : Instr} {op : Op} {s : State} {c : Completion} {out : Nat → Byte}
    (hi : i.operation = some op) (hb : s.busy = false) (hwf : s.dst.wf = true) (ho : opBody op s = .ok c)
    (hout : ∀ a, a < c.len → c.out.getD a 0#8 = out a) :
    succeeds i s c.len out ((c.dims.map Prod.fst).getD s.width) ((c.dims.map Prod.snd).getD s.height) := by
  have hdims : c.dims.isSome = i.writesDims := by
    rw [opBody_ok_dims_isSome ho, Instr.writesDims, hi]
    rfl
  have hlen := opBody_ok_len_toNat op s c ho
  have hbeyond := fun a => finish_dst_beyond (op := op) (s := s) (a := a)
  have hinside := fun a ha => finish_dst_output ho hwf (a := a) ha
  simp only [ho, finish_ok, commitRegisters_dstLen, hlen] at hbeyond hinside
  refine ⟨commitRegisters c (storeOutput c s), ?_, rfl, hlen, fun a ha => ?_, hbeyond, rfl, rfl, rfl, ?_,
    keepsInputs_finish (.ok c) s⟩
  · rw [exec_idle hi hb, ho, finish_ok]
  · rw [hinside a ha, hout a ha]
  · rw [commitRegisters_window, hdims]

theorem assertReset_inputTooLong (s : State) : (assertReset s).inputTooLong = false := by
  simp [State.inputTooLong]

theorem assertReset_srcHeader (s : State) : (assertReset s).srcHeader = none := by
  simp [State.srcHeader]

/-- With SRC_LEN = 0 the operations that decode a header or a block find none (R35). -/
theorem opBody_assertReset_format {op : Op} (s : State) (h : op = .hdrDec ∨ op = .blkDec ∨ op = .imgDec) :
    opBody op (assertReset s) = .error .format := by
  obtain rfl | rfl | rfl := h
  · simp [opBody, hdrDecBody, assertReset_inputTooLong, assertReset_srcHeader]
  · simp [opBody, blkDecBody, assertReset_inputTooLong]
  · simp [opBody, imgDecBody, assertReset_inputTooLong, assertReset_srcHeader]

/-- With no samples and zero dimensions the operations that take them find them wrong (R35). -/
theorem opBody_assertReset_dimension {op : Op} (s : State)
    (h : op = .blkEnc ∨ op = .plnEnc ∨ op = .plnDec ∨ op = .imgEnc ∨ op = .blue) :
    opBody op (assertReset s) = .error .dimension := by
  obtain rfl | rfl | rfl | rfl | rfl := h
  · simp [opBody, blkEncBody, assertReset_inputTooLong]
  · simp [opBody, plnEncBody, assertReset_inputTooLong, zeroArea]
  · simp [opBody, plnDecBody, assertReset_inputTooLong, zeroArea]
  · simp [opBody, imgEncBody, assertReset_inputTooLong, zeroArea]
  · simp [opBody, blueBody, assertReset_inputTooLong]

theorem opBody_assertReset_hdrEnc (s : State) (hcap : 12 ≤ s.params.dstCap.toNat) :
    opBody .hdrEnc (assertReset s) = .ok { len := 12, out := hdrBytes 0#32 0#32, dims := none } := by
  simp [opBody, hdrEncBody, State.outputTooLong, Nat.not_lt.mpr hcap]

end Sys2Proof.Machine

section

open Sys2Proof Sys2Proof.Machine

/-- Settles O1: the next state is `assertReset`, whose fields are those of R35. -/
theorem resetInputLeavesResetState : Obligations.ResetInputLeavesResetState := by
  refine ⟨fun s rest hs => ⟨_, step_of_cons s _ rest hs, rfl, rfl, rfl, rfl, rfl, rfl,
    fun n => readReg_assertReset _ n, fun _ => ⟨rfl, rfl⟩, rfl, rfl, rfl, rfl⟩,
    readReg_reset, rfl, rfl, rfl, fun _ => ⟨rfl, rfl⟩⟩

/-- Settles O2, by the check that each rule fails on the reset operands. -/
theorem operationsStraightAfterReset : Obligations.OperationsStraightAfterReset := by
  intro s
  have hb := assertReset_busy s
  have format := fun i op hi h => endsInError_of_body (i := i) (op := op) hi hb
    (opBody_assertReset_format s h)
  have dimension := fun i op hi h => endsInError_of_body (i := i) (op := op) hi hb
    (opBody_assertReset_dimension s h)
  refine ⟨format _ _ rfl (.inl rfl), format _ _ rfl (.inr (.inl rfl)), format _ _ rfl (.inr (.inr rfl)),
    dimension _ _ rfl (.inl rfl), dimension _ _ rfl (.inr (.inl rfl)),
    dimension _ _ rfl (.inr (.inr (.inl rfl))), dimension _ _ rfl (.inr (.inr (.inr (.inl rfl)))),
    dimension _ _ rfl (.inr (.inr (.inr (.inr rfl)))), fun hcap => ?_⟩
  exact succeeds_of_body (i := .hdrEnc) rfl hb rfl (opBody_assertReset_hdrEnc s hcap) (by decide)

end

/-! Accesses to the registers (spec/10_state.md R24, R25, R37, R39). -/

namespace Sys2Proof.Machine

theorem writeReg_of_busy {s : State} (h : s.busy = true) (n v : Nat) : s.writeReg n v = s := by
  unfold State.writeReg
  exact if_pos h

theorem accessReg_write_of_busy {s : State} (h : s.busy = true) (n v : Nat) :
    accessReg n (.write v) s = .next s := by rw [accessReg, writeReg_of_busy h]

/-- The registers above number 6 are reserved: they ignore writes (R24). -/
theorem writeReg_reserved (s : State) {n : Nat} (h : 7 ≤ n) (v : Nat) : s.writeReg n v = s := by
  obtain he | ⟨-, rfl, -⟩ | ⟨-, rfl, -⟩ | ⟨-, rfl, -⟩ | ⟨-, rfl, -⟩ | ⟨-, rfl, -⟩ := writeReg_cases s n v
  · exact he
  all_goals omega

theorem readReg_reserved (s : State) {n : Nat} (h : 7 ≤ n) : s.readReg n = 0 := by
  obtain ⟨k, rfl⟩ := Nat.exists_eq_add_of_le' h
  rfl

theorem decodeReg_reserved {n : Nat} (h : 7 ≤ n) (x : RegAccess) :
    decodeReg n x = .error .reservedRegister := by
  obtain ⟨k, rfl⟩ := Nat.exists_eq_add_of_le' h
  rfl

theorem execRequest_of_reject {r : Request} {e : Reject} (h : decode r = .error e) (s : State) :
    execRequest r s = execUndecoded r s := by simp [execRequest, h]

/-- A read of a register other than STATUS changes only what the HOST has read (R39). -/
theorem accessReg_read_of_ne (s : State) {n : Nat} (h : n ≠ 1) :
    accessReg n .read s = .next { s with hostIn := .value (s.readReg n) } := by
  rw [accessReg, windowAfterRead_of_ne s n h]

/-- A read of STATUS that returns DONE = 1 closes the window (R266). -/
theorem accessReg_read_status (s : State) : accessReg 1 .read s = .next { s with
    hostIn := .value s.status.toNat
    window := if s.status.getLsbD 1 then none else s.window } := by
  simp [accessReg, State.windowAfterRead, statusDoneBit, State.readReg]

/-- When the HOST's next action is a request that decodes, the step executes its instruction (R25, R108). -/
theorem step_of_request {s : State} {r : Request} {rest : List HostAction} {i : Instr}
    (hs : s.script = .request r :: rest) (hi : decode r = .ok i) : step s = exec i { s with script := rest } :=
  (step_of_cons s _ rest hs).trans (execRequest_of_decode r i _ hi)

theorem exists_request_of_decodeTableWord {nbits w : Nat} {i : Instr} (h : decodeTableWord nbits w = some i) :
    ∃ r, requestOfTableWord nbits w = some r ∧ decode r = .ok i := by
  unfold decodeTableWord at h
  split at h
  next r hr =>
    cases hd : decode r with
    | error e => simp [hd, Except.toOption] at h
    | ok j => exact ⟨r, hr, by simpa [hd, Except.toOption] using h⟩
  next => cases h

/-- An idle write of an operand register keeps its implemented bits (R24). -/
theorem writeReg_width {s : State} (hb : s.busy = false) (v : Nat) : s.writeReg 2 v = { s with
    width := BitVec.ofNat 32 v, window := s.window.map fun w => { w with widthOut := false } } := by
  simp [State.writeReg, hb]

theorem writeReg_height {s : State} (hb : s.busy = false) (v : Nat) : s.writeReg 3 v = { s with
    height := BitVec.ofNat 32 v, window := s.window.map fun w => { w with heightOut := false } } := by
  simp [State.writeReg, hb]

theorem writeReg_blueMode {s : State} (hb : s.busy = false) (v : Nat) :
    s.writeReg 4 v = { s with blueMode := BitVec.ofNat 2 v } := by simp [State.writeReg, hb]

theorem writeReg_srcLen {s : State} (hb : s.busy = false) (v : Nat) :
    s.writeReg 5 v = { s with srcLen := BitVec.ofNat 66 v } := by simp [State.writeReg, hb]

/-- STATUS and DST_LEN are read only (R26, R32). -/
theorem writeReg_readOnly (s : State) {n : Nat} (h : n = 1 ∨ n = 6) (v : Nat) : s.writeReg n v = s := by
  obtain he | ⟨-, rfl, -⟩ | ⟨-, rfl, -⟩ | ⟨-, rfl, -⟩ | ⟨-, rfl, -⟩ | ⟨-, rfl, -⟩ := writeReg_cases s n v
  · exact he
  all_goals omega

end Sys2Proof.Machine

section

open Sys2Proof Sys2Proof.Machine

/-- Settles O9: such a request does not decode, and its access reads 0 or changes nothing. -/
theorem reservedRegisterNumbers : Obligations.ReservedRegisterNumbers := by
  refine fun s n v rest hn => ⟨fun hs => ?_, fun hs => ?_⟩ <;>
    rw [step_of_cons s _ rest hs, hostMove]
  · rw [execRequest_of_reject (r := .regRead n) (decodeReg_reserved hn _), execUndecoded,
      accessReg_read_of_ne _ (by omega), readReg_reserved _ hn]
  · rw [execRequest_of_reject (r := .regWrite n v) (decodeReg_reserved hn _), execUndecoded,
      accessReg, writeReg_reserved _ hn]

/-- Settles O41: STATUS is the one register whose read can close the window. -/
theorem registerReads : Obligations.RegisterReads := by
  intro s
  have hread := fun n (h : n ≠ 1) => accessReg_read_of_ne s h
  exact ⟨hread 0 (by decide), accessReg_read_status s, hread 2 (by decide), hread 3 (by decide),
    hread 4 (by decide), hread 5 (by decide), hread 6 (by decide)⟩

/-- Settles O42: the write of each register in an idle state, and the value read back. -/
theorem registerWrites : Obligations.RegisterWrites := by
  intro s t v hb
  have hwrite : ∀ n u, s.writeReg n v = u → accessReg n (.write v) s = .next u := fun n u hu => congrArg _ hu
  refine ⟨?_, ?_, ?_, ?_, hwrite 1 s (writeReg_readOnly s (.inl rfl) v),
    hwrite 6 s (writeReg_readOnly s (.inr rfl) v)⟩ <;> rintro rfl
  · exact ⟨hwrite 2 _ (writeReg_width hb v), BitVec.toNat_ofNat ..⟩
  · exact ⟨hwrite 3 _ (writeReg_height hb v), BitVec.toNat_ofNat ..⟩
  · exact ⟨hwrite 4 _ (writeReg_blueMode hb v), BitVec.toNat_ofNat ..⟩
  · exact ⟨hwrite 5 _ (writeReg_srcLen hb v), BitVec.toNat_ofNat ..⟩

/-- Settles O43: the write of register 0 is `startOperation`. -/
theorem cmdWriteIsStartStep : Obligations.CmdWriteIsStartStep := fun _ v hb =>
  congrArg _ (writeReg_cmd hb v)

/-- Settles O44: an operation and a register write leave a busy state alone. -/
theorem busyIgnoresRegisterWrites : Obligations.BusyIgnoresRegisterWrites := by
  intro s v hb
  have hwrite := fun n => accessReg_write_of_busy hb n v
  refine ⟨fun i op hi => ?_, hwrite 0, hwrite 1, hwrite 2, hwrite 3, hwrite 4, hwrite 5, hwrite 6⟩
  rw [exec_of_operation i op s hi, runOperation_busy _ s hb]

/-- Settles O8: the step takes the request from the script, and a table word puts it there. -/
theorem stepRunsDecodedInstruction : Obligations.StepRunsDecodedInstruction := by
  refine ⟨fun _ _ _ _ hs hi => step_of_request hs hi, fun s nbits w i hi => ?_⟩
  obtain ⟨r, hr, hd⟩ := exists_request_of_decodeTableWord hi
  have hword : s.withFetchWord nbits w = { s with script := .request r :: s.script } := by
    simp [State.withFetchWord, withRequestWord, hr]
  exact hword ▸ step_of_request rfl hd

end

/-! Accesses to the buffers (spec/10_state.md R27, R37; spec/70_reset_and_hazards.md R266). -/

namespace Sys2Proof.Machine

theorem inRange_of_le {cap : Len} {a n : Nat} (h : a + n ≤ cap.toNat) : inRange cap a n = true := by
  simp [inRange, h]

theorem inRange_of_lt {cap : Len} {a n : Nat} (hn : n ≠ 0) (h : cap.toNat < a + n) :
    inRange cap a n = false := by
  simp [inRange, hn, h]

/-- No layout of format DATA is empty (R90). -/
theorem datum_length_ne_zero {i : Instr} {a : Len} {bs : List Byte} (h : i.datum = some (a, bs)) :
    bs.length ≠ 0 := by
  cases i <;> simp only [Instr.datum, Option.some.injEq, Prod.mk.injEq, reduceCtorEq] at h <;>
    (obtain ⟨-, rfl⟩ := h; simp)

theorem putSrc_of_idle {s : State} {a : Len} {bs : List Byte} (hb : s.busy = false)
    (hr : a.toNat + bs.length ≤ s.params.srcCap.toNat) :
    putSrc a bs s = .next (storeSrc a.toNat bs s) := by simp [putSrc, hb, inRange_of_le hr]

/-- The CORE owns DST while BUSY = 1 and as long as the window is open (R266). -/
theorem owned_iff (s : State) : s.owned = true ↔ s.busy = true ∨ s.window ≠ none := by
  simp [State.owned, Option.isSome_iff_ne_none]

theorem owned_eq_false_iff (s : State) : s.owned = false ↔ s.busy = false ∧ s.window = none := by
  simp [State.owned]

theorem getDst_of_owned {s : State} {a : Len} {n : Nat} (ho : s.owned = true)
    (hr : a.toNat + n ≤ s.params.dstCap.toNat) :
    getDst a n s = .next { s with
      hostIn := .bytes (s.dstBytesRead a.toNat n), freeCtr := s.freeCtr + n } := by
  simp [getDst, inRange_of_le hr, State.drawn, ho]

theorem getDst_of_free {s : State} {a : Len} {n : Nat} (ho : s.owned = false)
    (hr : a.toNat + n ≤ s.params.dstCap.toNat) :
    getDst a n s = .next { s with hostIn := .bytes (s.dstBytes a.toNat n) } := by
  simp [getDst, inRange_of_le hr, State.drawn, State.dstBytesRead, ho]

theorem getSrc_of_le {s : State} {a : Len} {n : Nat} (hr : a.toNat + n ≤ s.params.srcCap.toNat) :
    getSrc a n s = .next { s with hostIn := .bytes (s.srcBytes a.toNat n) } := by
  simp [getSrc, inRange_of_le hr]

theorem putDst_of_idle {s : State} {a : Len} {bs : List Byte} (hb : s.busy = false)
    (hr : a.toNat + bs.length ≤ s.params.dstCap.toNat) :
    putDst a bs s = .next { s with
      dst := s.dst.writeBytes a.toNat (s.dstAfterWrite a.toNat bs), freeCtr := s.drawn bs.length } := by
  simp [putDst, hb, inRange_of_le hr]

theorem State.srcBytes_getD (s : State) (a n j : Nat) (h : j < n) :
    (s.srcBytes a n).getD j 0#8 = s.srcByte (a + j) := by simp [State.srcBytes, h]

theorem State.dstBytes_getD (s : State) (a n j : Nat) (h : j < n) :
    (s.dstBytes a n).getD j 0#8 = s.dstByte (a + j) := by simp [State.dstBytes, h]

/-- A byte that a HOST write leaves in DST is the one written or, in an open window, the one that was there (R266). -/
theorem dstAfterWrite_getD (s : State) (a : Nat) (bs : List Byte) {j : Nat} (h : j < bs.length) :
    (s.dstAfterWrite a bs).getD j 0#8 = bs.getD j 0#8 ∨
      (s.dstAfterWrite a bs).getD j 0#8 = s.dstByte (a + j) := by
  unfold State.dstAfterWrite
  split
  · cases hsurvives : Config.dstWriteSurvives (s.freeCtr + j) <;> simp [h, hsurvives]
  · exact .inl rfl

/-- Bytes written at `a`, read back. -/
theorem Memory.read_writeBytes_getD {m : Memory} (hm : m.wf = true) (a : Nat) (bs : List Byte) {j : Nat}
    (h : j < bs.length) : Memory.read (Memory.writeBytes m a bs) (a + j) = some (bs.getD j 0#8) := by
  rw [Memory.read_writeBytes bs m a (a + j) hm, if_pos ⟨by omega, by omega⟩, Nat.add_sub_cancel_left]

/-- Everything an idle HOST write of DST inside the space does (R27, R266). -/
theorem putDst_idle_spec {s : State} {a : Len} {bs : List Byte} (hb : s.busy = false) (hwf : s.dst.wf = true)
    (hr : a.toNat + bs.length ≤ s.params.dstCap.toNat) :
    ∃ t, putDst a bs s = .next t ∧ t = { s with dst := t.dst, freeCtr := t.freeCtr } ∧
      (∀ c, c < a.toNat ∨ a.toNat + bs.length ≤ c → t.dst.read c = s.dst.read c) ∧
      (s.window = none → t.freeCtr = s.freeCtr ∧
        ∀ j, j < bs.length → t.dst.read (a.toNat + j) = some (bs.getD j 0#8)) ∧
      (∀ j, j < bs.length → t.dst.read (a.toNat + j) = some (bs.getD j 0#8) ∨
        t.dst.read (a.toNat + j) = some (s.dstByte (a.toNat + j))) := by
  have hlen := dstAfterWrite_length s a.toNat bs
  have hread : ∀ j, j < bs.length →
      (s.dst.writeBytes a.toNat (s.dstAfterWrite a.toNat bs)).read (a.toNat + j) =
        some ((s.dstAfterWrite a.toNat bs).getD j 0#8) :=
    fun j hj => Memory.read_writeBytes_getD hwf _ _ (hlen.symm ▸ hj)
  refine ⟨_, putDst_of_idle hb hr, rfl, fun c hc => ?_, fun hw => ⟨?_, fun j hj => ?_⟩, fun j hj => ?_⟩
  · exact Memory.read_writeBytes_of_outside _ _ _ _ (hlen.symm ▸ hc)
  · simp [State.drawn, (owned_eq_false_iff s).mpr ⟨hb, hw⟩]
  · rw [hread j hj, dstAfterWrite_of_closed s _ bs hw]
  · rw [hread j hj]
    exact (dstAfterWrite_getD s a.toNat bs hj).imp (congrArg some) (congrArg some)

end Sys2Proof.Machine

section

open Sys2Proof Sys2Proof.Machine

/-- Settles O46: both stops are those of `putSrc`, and no DATA row is empty. -/
theorem dataRowsStop : Obligations.DataRowsStop := by
  intro i a bs s hi
  rw [exec_of_datum i a bs s hi, putSrc]
  refine ⟨fun hb => if_pos hb, fun hb hcap => ?_⟩
  rw [inRange_of_lt (datum_length_ne_zero hi) hcap]
  simp [hb]

/-- Settles O45: each row is a `PUT SRC` of its bytes (`exec_of_datum`), and `storeSrc` keeps the rest. -/
theorem dataRowsPlaceBytesInSrc : Obligations.DataRowsPlaceBytesInSrc := by
  intro s a w h b body r g bl al hb hwf i bs hi hcap
  have hdatum : i.datum = some (a, bs) := by
    obtain ⟨rfl, rfl⟩ | ⟨rfl, rfl⟩ | ⟨rfl, rfl⟩ | ⟨rfl, rfl⟩ := hi <;> rfl
  refine ⟨_, (exec_of_datum i a bs s hdatum).trans (putSrc_of_idle hb hcap),
    storeSrc_keeps _ bs s, fun j hj => ?_, fun c hc => ?_⟩ <;> rw [storeSrc_src]
  · exact Memory.read_writeBytes_getD hwf _ bs hj
  · exact Memory.read_writeBytes_of_outside bs _ _ _ hc

/-- Settles O47: who owns DST decides what a read of it returns (`getDst_of_free`, `getDst_of_owned`); a read of SRC
returns its bytes. -/
theorem hostBufferReads : Obligations.HostBufferReads := by
  intro s a n rest
  refine ⟨fun hs hcap => ⟨fun hb hw => ?_, fun howned => ?_⟩, fun hs hcap => ?_⟩ <;>
    rw [step_of_cons s _ rest hs, hostMove]
  · have ho := (owned_eq_false_iff { s with script := rest }).mpr ⟨hb, hw⟩
    refine ⟨_, dstBytes_length s _ n, getDst_of_free ho hcap, fun j hj => ?_⟩
    have hbyte := State.dstBytes_getD s a.toNat n j hj
    exact ⟨hbyte, fun b hb => hbyte.trans (dstByte_of_read hb)⟩
  · have ho := (owned_iff { s with script := rest }).mpr howned
    exact ⟨_, dstBytesRead_length _ _ n, getDst_of_owned ho hcap⟩
  · refine ⟨_, srcBytes_length s _ n, getSrc_of_le hcap, fun j hj => ?_⟩
    have hbyte := State.srcBytes_getD s a.toNat n j hj
    exact ⟨hbyte, fun b hb => hbyte.trans (srcByte_of_read hb)⟩

/-- Settles O48: plain bytes are no layout and so a `PUT SRC` as they are; a DST write stores what the window lets
survive (`dstAfterWrite_getD`). -/
theorem hostBufferWrites : Obligations.HostBufferWrites := by
  intro s a bs rest hb hsrc hdst
  refine ⟨fun hs hcap => ?_, fun hs hcap => ?_⟩ <;> rw [step_of_cons s _ rest hs, hostMove]
  · rw [execRequest_of_reject (r := .put .plain a bs) (e := .plainBytes) rfl]
    refine ⟨_, putSrc_of_idle (s := { s with script := rest }) hb hcap, storeSrc_keeps _ _ _, fun c => ?_⟩
    rw [storeSrc_src]
    exact Memory.read_writeBytes bs s.src a.toNat c hsrc
  · exact putDst_idle_spec (s := { s with script := rest }) hb hdst hcap

end

/-! The bits of an EncodedBlock (spec/30_encoding.md R94): sixteen indices of three bits and six bytes of eight are one
stream of 48 bits, so bit `p` of the one is bit `p` of the other. -/

namespace Sys2Proof.Machine

/-! ### One stream of bits -/

/-- Digits of `w` bits, the first in the low bits: bit `p` of the number is bit `p % w` of digit `p / w`. -/
theorem testBit_foldr_digits {w : Nat} (hw : 0 < w) (l : List (BitVec w)) (p : Nat) :
    (l.foldr (fun (d : BitVec w) acc => d.toNat + 2 ^ w * acc) 0).testBit p = (l.getD (p / w) 0#w).getLsbD (p % w) := by
  induction l generalizing p with
  | nil => simp
  | cons d l ih =>
    rw [List.foldr_cons, Nat.add_comm, Nat.testBit_two_pow_mul_add _ d.isLt]
    split
    next hp => rw [Nat.div_eq_of_lt hp, Nat.mod_eq_of_lt hp, List.getD_cons_zero, BitVec.testBit_toNat]
    next hp =>
      obtain ⟨q, rfl⟩ := Nat.exists_eq_add_of_le' (Nat.not_lt.mp hp)
      rw [Nat.add_sub_cancel, ih, Nat.add_div_right q hw, Nat.add_mod_right, List.getD_cons_succ]

theorem testBit_bits48OfIndices (idx : List Index) (p : Nat) :
    (bits48OfIndices idx).testBit p = (idx.getD (p / 3) 0#3).getLsbD (p % 3) :=
  testBit_foldr_digits (by decide) idx p

theorem testBit_bits48OfBytes (bs : List Byte) (p : Nat) :
    (bits48OfBytes bs).testBit p = (bs.getD (p / 8) 0#8).getLsbD (p % 8) :=
  testBit_foldr_digits (by decide) bs p

/-- Digit `p / w` cut from a number has bit `p` of it at `p % w`. -/
theorem getLsbD_ofNat_shiftRight {w : Nat} (hw : 0 < w) (n p : Nat) :
    (BitVec.ofNat w (n >>> (w * (p / w)))).getLsbD (p % w) = n.testBit p := by
  rw [BitVec.getLsbD_ofNat, Nat.testBit_shiftRight, Nat.div_add_mod, decide_eq_true (Nat.mod_lt p hw), Bool.true_and]

/-- R94, packing: stream bit `p` stands in byte `2 + p / 8` at `p % 8`. -/
theorem getLsbD_pack (b : EncodedBlock) {p : Nat} (hp : p < 48) :
    ((pack b).getD (2 + p / 8) 0#8).getLsbD (p % 8) = (b.idx.getD (p / 3) 0#3).getLsbD (p % 3) := by
  have hbyte : (pack b).getD (2 + p / 8) 0#8 = BitVec.ofNat 8 (bits48OfIndices b.idx >>> (8 * (p / 8))) := by
    have : p / 8 < 6 := by omega
    rw [pack, Nat.add_comm 2, List.getD_cons_succ, List.getD_cons_succ, List.getD_eq_getElem _ _ (by simpa)]
    simp
  rw [hbyte, getLsbD_ofNat_shiftRight (by decide), testBit_bits48OfIndices]

/-- R94, unpacking: stream bit `p` is bit `p % 3` of index `p / 3`. -/
theorem getLsbD_unpack (bs : List Byte) {p : Nat} (hp : p < 48) :
    ((unpack bs).idx.getD (p / 3) 0#3).getLsbD (p % 3) = (bs.getD (2 + p / 8) 0#8).getLsbD (p % 8) := by
  have hindex : (unpack bs).idx.getD (p / 3) 0#3 =
      BitVec.ofNat 3 (bits48OfBytes ((bs.drop 2).take 6) >>> (3 * (p / 3))) := by
    rw [unpack, List.getD_eq_getElem _ _ (by simp; omega)]
    simp
  have hbyte : ((bs.drop 2).take 6).getD (p / 8) 0#8 = bs.getD (2 + p / 8) 0#8 := by
    simp only [List.getD_eq_getElem?_getD, List.getElem?_take, List.getElem?_drop,
      if_pos (show p / 8 < 6 by omega)]
  rw [hindex, getLsbD_ofNat_shiftRight (by decide), testBit_bits48OfBytes, hbyte]

/-! ### `pack` and `unpack` are inverse (R151, R152) -/

/-- Lists of words of `w` bits are equal when every bit is. -/
theorem list_eq_of_getLsbD {w : Nat} {l l' : List (BitVec w)} (hlen : l.length = l'.length)
    (h : ∀ k j, k < l.length → j < w → (l.getD k 0#w).getLsbD j = (l'.getD k 0#w).getLsbD j) : l = l' := by
  refine List.ext_getElem hlen fun k hk hk' => BitVec.eq_of_getLsbD_eq fun j hj => ?_
  have hbit := h k j hk hj
  rwa [List.getD_eq_getElem _ _ hk, List.getD_eq_getElem _ _ hk'] at hbit

theorem unpack_pack {b : EncodedBlock} (hb : b.wellFormed = true) : unpack (pack b) = b := by
  have hlen : b.idx.length = 16 := beq_iff_eq.mp hb
  have hidx : (unpack (pack b)).idx = b.idx := by
    refine list_eq_of_getLsbD (by rw [unpack_idx_length, hlen]) fun k j hk hj => ?_
    rw [unpack_idx_length] at hk
    have hk' : (3 * k + j) / 3 = k := by omega
    have hj' : (3 * k + j) % 3 = j := by omega
    have hbit := (getLsbD_unpack (pack b) (p := 3 * k + j) (by omega)).trans (getLsbD_pack b (by omega))
    rwa [hk', hj'] at hbit
  calc unpack (pack b) = ⟨b.e0, b.e1, (unpack (pack b)).idx⟩ := rfl
    _ = b := by rw [hidx]

theorem pack_unpack {bs : List Byte} (hlen : bs.length = 8) : pack (unpack bs) = bs := by
  refine list_eq_of_getLsbD (by rw [pack_length, hlen]) fun k j hk hj => ?_
  rw [pack_length] at hk
  match k with
  | 0 => rfl
  | 1 => rfl
  | m + 2 =>
    have hm : (8 * m + j) / 8 = m := by omega
    have hj' : (8 * m + j) % 8 = j := by omega
    have hbit := (getLsbD_pack (unpack bs) (p := 8 * m + j) (by omega)).trans (getLsbD_unpack bs (by omega))
    rwa [hm, hj', Nat.add_comm 2] at hbit

theorem unpack_wellFormed (bs : List Byte) : (unpack bs).wellFormed = true := beq_iff_eq.mpr (unpack_idx_length bs)

end Sys2Proof.Machine

/-! The layouts of format DATA (spec/30_encoding.md R91, R94, R96, R97), each read back from its bytes and written back
to them. -/

namespace Sys2Proof.Machine

open Sys2Proof.Laws.FormatLength (unbe32_be32)

/-! ### The header -/

theorem be32_unbe32 (b0 b1 b2 b3 : Byte) : be32 (unbe32 b0 b1 b2 b3) = [b0, b1, b2, b3] := by
  have h0 := b0.isLt
  have h1 := b1.isLt
  have h2 := b2.isLt
  have h3 := b3.isLt
  have hbyte : ∀ {k : Nat} {b : Byte}, (unbe32 b0 b1 b2 b3).toNat / 2 ^ k % 2 ^ 8 = b.toNat →
      (unbe32 b0 b1 b2 b3).extractLsb' k 8 = b := fun h =>
    BitVec.eq_of_toNat_eq (by rwa [BitVec.extractLsb'_toNat, Nat.shiftRight_eq_div_pow])
  have hval : (unbe32 b0 b1 b2 b3).toNat =
      b0.toNat * 2 ^ 24 + b1.toNat * 2 ^ 16 + b2.toNat * 2 ^ 8 + b3.toNat := by
    rw [unbe32, BitVec.toNat_ofNat]
    omega
  rw [be32, hbyte (b := b0) (by omega), hbyte (b := b1) (by omega), hbyte (b := b2) (by omega),
    hbyte (b := b3) (by omega)]

/-- R123, R126: what parses is the header's bytes and the rest, and those parse. -/
theorem hdrParse_eq_some_iff {bs rem : List Byte} {w h : Dim} :
    hdrParse bs = some (w, h, rem) ↔ bs = hdrBytes w h ++ rem := by
  constructor
  · intro hp
    unfold hdrParse at hp
    split at hp
    next =>
      split at hp
      next hm =>
        cases hp
        rw [hdrBytes, be32_unbe32, be32_unbe32, ← hm]
        rfl
      next => cases hp
    next => cases hp
  · rintro rfl
    have hread : hdrParse (hdrBytes w h ++ rem) = some
        (unbe32 (w.extractLsb' 24 8) (w.extractLsb' 16 8) (w.extractLsb' 8 8) (w.extractLsb' 0 8),
          unbe32 (h.extractLsb' 24 8) (h.extractLsb' 16 8) (h.extractLsb' 8 8) (h.extractLsb' 0 8), rem) := rfl
    rw [hread, unbe32_be32, unbe32_be32]

/-! ### The body of a stream -/

theorem bodyBytes_cons (p : EncodedBlock × EncodedBlock) (body : List (EncodedBlock × EncodedBlock)) :
    bodyBytes (p :: body) = pack p.1 ++ (pack p.2 ++ bodyBytes body) := List.append_assoc _ _ _

theorem splitBody_length (n : Nat) (bs : List Byte) : (splitBody n bs).length = n := by
  induction n generalizing bs with
  | zero => rfl
  | succ n ih => rw [splitBody, List.length_cons, ih]

theorem splitBody_wellFormed (n : Nat) (bs : List Byte) :
    (splitBody n bs).all (fun p => p.1.wellFormed && p.2.wellFormed) = true := by
  induction n generalizing bs with
  | zero => rfl
  | succ n ih => rw [splitBody, List.all_cons, ih, unpack_wellFormed, unpack_wellFormed]; rfl

theorem splitBody_bodyBytes {body : List (EncodedBlock × EncodedBlock)}
    (hwf : body.all (fun p => p.1.wellFormed && p.2.wellFormed) = true) :
    splitBody body.length (bodyBytes body) = body := by
  induction body with
  | nil => rfl
  | cons p body ih =>
    simp only [List.all_cons, Bool.and_eq_true] at hwf
    obtain ⟨⟨hred, hgreen⟩, hbody⟩ := hwf
    have hrest : (bodyBytes (p :: body)).drop 8 = pack p.2 ++ bodyBytes body :=
      bodyBytes_cons p body ▸ List.drop_left' (pack_length _)
    have hskip : (bodyBytes (p :: body)).drop 16 = ((bodyBytes (p :: body)).drop 8).drop 8 := by
      rw [List.drop_drop]
    rw [List.length_cons, splitBody, hskip, hrest, List.drop_left' (pack_length _), ih hbody,
      List.take_left' (pack_length _), bodyBytes_cons, List.take_left' (pack_length _),
      unpack_pack hred, unpack_pack hgreen]

theorem bodyBytes_splitBody {n : Nat} {bs : List Byte} (hlen : bs.length = 16 * n) :
    bodyBytes (splitBody n bs) = bs := by
  induction n generalizing bs with
  | zero => exact (List.length_eq_zero_iff.mp hlen).symm
  | succ n ih =>
    rw [splitBody, bodyBytes_cons, pack_unpack (by rw [List.length_take]; omega),
      pack_unpack (by rw [List.length_take, List.length_drop]; omega),
      ih (by rw [List.length_drop]; omega),
      ← List.drop_drop (i := 8) (j := 8), List.take_append_drop, List.take_append_drop]

end Sys2Proof.Machine

/-! The decoder and the encoder (spec/30_encoding.md R91 to R101, spec/10_state.md R24): for each family of requests,
which instruction it decodes to. -/

namespace Sys2Proof

open Machine

/-! ### Format CMD -/

/-- A CMD value is its bits 31:4 and its OP field (R100). -/
theorem cmd_eq_append (c : BitVec 32) : c.extractLsb' 4 28 ++ c.extractLsb' 0 4 = c :=
  (BitVec.extractLsb'_append_extractLsb'_eq_extractLsb' (Nat.zero_add 4).symm).trans BitVec.extractLsb'_eq_self

theorem decodeCmd_of_upper {op : BitVec 4} {zero : BitVec 28} (h : zero ≠ 0#28) :
    decodeCmd (zero ++ op) = .reservedUpper op zero := by
  rw [decodeCmd, BitVec.extractLsb'_append_eq_left, BitVec.extractLsb'_append_eq_right, if_pos h]

/-- The sixteen values of OP with bits 31:4 clear. -/
theorem decodeCmd_of_op : ∀ op : BitVec 4,
    (decodeCmd (0#28 ++ op)).wellFormed = true ∧ encode (decodeCmd (0#28 ++ op)) = .cmd (0#28 ++ op) := by decide

/-- R100, R101: every CMD value decodes to a row that encodes to it. -/
theorem encode_decodeCmd (c : BitVec 32) : (decodeCmd c).wellFormed = true ∧ encode (decodeCmd c) = .cmd c := by
  rw [← cmd_eq_append c]
  generalize c.extractLsb' 4 28 = zero, c.extractLsb' 0 4 = op
  by_cases h : zero = 0#28
  · subst h
    exact decodeCmd_of_op op
  · rw [decodeCmd_of_upper h]
    exact ⟨bne_iff_ne.mpr h, rfl⟩

/-! ### Format REGISTER -/

/-- R24: a register number selects the row of that register. -/
theorem register_of_decodeReg {n : Nat} {x : RegAccess} {i : Instr} (h : decodeReg n x = .ok i) :
    i.register = some (n, x) :=
  match n with
  | 0 | 1 | 2 | 3 | 4 | 5 | 6 => by cases h; rfl
  | n + 7 => by cases h

theorem encode_of_register {i : Instr} {n : Nat} {x : RegAccess} (h : i.register = some (n, x)) :
    i.wellFormed = true ∧ encode i = encodeReg n x := by
  cases i <;> cases h <;> exact ⟨rfl, rfl⟩

theorem decode_encodeReg (n : Nat) (x : RegAccess) : decode (encodeReg n x) = decodeReg n x := by cases x <;> rfl

/-! ### Format DATA -/

theorem decodeHeader_hdrBytes (a : Len) (w h : Dim) : decodeHeader a (hdrBytes w h) = .ok (.header a w h) := by
  have hp : hdrParse (hdrBytes w h) = some (w, h, []) := hdrParse_eq_some_iff.mpr (List.append_nil _).symm
  rw [decodeHeader, if_neg (not_not.mpr (hdrBytes_length w h)), hp]

theorem encode_of_decodeHeader {a : Len} {bs : List Byte} {i : Instr} (hd : decodeHeader a bs = .ok i) :
    i.wellFormed = true ∧ encode i = .put .header a bs := by
  unfold decodeHeader at hd
  split at hd
  next => cases hd
  next hlen =>
    split at hd
    next w h rem hp =>
      cases hd
      rw [hdrParse_eq_some_iff] at hp
      rw [not_not, hp, List.length_append, hdrBytes_length] at hlen
      have hrem : rem = [] := List.length_eq_zero_iff.mp (by omega)
      exact ⟨rfl, by rw [hp, hrem, List.append_nil]; rfl⟩
    next => cases hd

theorem decodeStream_streamBytes {a : Len} {w h : Dim} {body : List (EncodedBlock × EncodedBlock)}
    (hwf : (Instr.stream a w h body).wellFormed = true) :
    decodeStream a (streamBytes w h body) = .ok (.stream a w h body) := by
  rw [Instr.wellFormed, Bool.and_eq_true, beq_iff_eq] at hwf
  obtain ⟨hcount, hblocks⟩ := hwf
  have hp : hdrParse (streamBytes w h body) = some (w, h, bodyBytes body) := hdrParse_eq_some_iff.mpr rfl
  rw [decodeStream, if_neg (by rw [streamBytes_length]; omega), hp]
  simp only [bodyBytes_length, hcount, if_true]
  rw [← hcount, splitBody_bodyBytes hblocks]

theorem encode_of_decodeStream {a : Len} {bs : List Byte} {i : Instr} (hd : decodeStream a bs = .ok i) :
    i.wellFormed = true ∧ encode i = .put .stream a bs := by
  unfold decodeStream at hd
  split at hd
  next => cases hd
  next =>
    split at hd
    next w h rem hp =>
      split at hd
      next hlen =>
        cases hd
        have hwf : (Instr.stream a w h (splitBody (blockCount w h) rem)).wellFormed = true := by
          rw [Instr.wellFormed, splitBody_length, splitBody_wellFormed, beq_self_eq_true, Bool.and_true]
        exact ⟨hwf, by rw [encode, streamBytes, bodyBytes_splitBody hlen, ← hdrParse_eq_some_iff.mp hp]⟩
      next => cases hd
    next => cases hd

theorem decodeData_encodedBlock {a : Len} {b : EncodedBlock} (hb : b.wellFormed = true) :
    decodeData .encodedBlock a (pack b) = .ok (.encodedBlock a b) := by
  rw [decodeData, if_pos (pack_length b), unpack_pack hb]

/-- Bytes that are read as a layout are the layout's bytes, of a well-formed instruction. -/
theorem encode_of_decodeData {f : DataFormat} {a : Len} {bs : List Byte} {i : Instr}
    (hd : decodeData f a bs = .ok i) : i.wellFormed = true ∧ encode i = .put f a bs := by
  unfold decodeData at hd
  split at hd
  next => exact encode_of_decodeHeader hd
  next =>
    split at hd
    next hlen => cases hd; exact ⟨unpack_wellFormed bs, by rw [encode, pack_unpack hlen]⟩
    next => cases hd
  next => exact encode_of_decodeStream hd
  next =>
    split at hd
    next => cases hd; exact ⟨rfl, rfl⟩
    next => cases hd
  next => cases hd

end Sys2Proof

/-! What IMG_ENC reads of an image (spec/30_encoding.md R97, spec/43_image.md R200, R203). -/

namespace Sys2Proof.Machine

/-- Only the bytes at component offsets 0 and 1 of the pixels are encoded. -/
theorem imgEncode_congr_redGreen (tie : ModeTie) {img img' : Nat → Byte} (w h : Dim)
    (himg : ∀ p c, c < 2 → img (4 * p + c) = img' (4 * p + c)) :
    imgEncode tie img w h = imgEncode tie img' w h := by
  have hplane : ∀ c, c < 2 → channelPlane img c = channelPlane img' c := fun c hc => funext fun p => himg p c hc
  have hpair : imgEncodePair tie img w.toNat h.toNat = imgEncodePair tie img' w.toNat h.toNat := by
    funext k
    rw [imgEncodePair, imgEncodePair, hplane 0 (by decide), hplane 1 (by decide)]
  rw [imgEncode, imgEncode, hpair]

theorem imgEncBody_withSrc {s : State} {m : Memory}
    (hsrc : ∀ p c, c < 2 → s.srcByte (4 * p + c) = ({ s with src := m } : State).srcByte (4 * p + c)) :
    imgEncBody { s with src := m } = imgEncBody s := by
  have himg := imgEncode_congr_redGreen s.params.modeTie s.width s.height hsrc
  rw [imgEncBody, imgEncBody, himg]
  rfl

/-- The completion step leaves SRC alone (R27). -/
theorem finish_withSrc (r : Except ErrKind Completion) (s : State) (m : Memory) :
    finish r { s with src := m } = { finish r s with src := m } := by cases r <;> rfl

theorem exec_imgEnc_withSrc {s t : State} {m : Memory} (hb : s.busy = false)
    (hsrc : ∀ p c, c < 2 → s.srcByte (4 * p + c) = ({ s with src := m } : State).srcByte (4 * p + c))
    (ht : exec .imgEnc s = .next t) : exec .imgEnc { s with src := m } = .next { t with src := m } := by
  have hidle : ∀ u : State, u.busy = false → exec .imgEnc u = .next (finish (imgEncBody u) u) := fun _ =>
    exec_idle (i := .imgEnc) (op := .imgEnc) rfl
  rw [hidle s hb] at ht
  cases ht
  rw [hidle { s with src := m } hb, finish_withSrc, imgEncBody_withSrc hsrc]

end Sys2Proof.Machine

/-! WAIT (spec/30_encoding.md R108). -/

namespace Sys2Proof.Machine

theorem hostMove_wait_idle {s : State} (hb : s.busy = false) : hostMove .wait s = accessReg 1 .read s := by
  simp [hostMove, hb]

theorem hostMove_wait_busy {s : State} (hb : s.busy = true) :
    hostMove .wait s = .next (coreMove { s with script := .wait :: s.script }) := by simp [hostMove, hb]

end Sys2Proof.Machine

section

open Sys2Proof Sys2Proof.Machine

/-- Settles O6: a CMD row is its value (by `rfl`), a REGISTER row its number (`decode_encodeReg`), and each DATA
row is read back from its bytes. -/
theorem decodeOfEncode : Obligations.DecodeOfEncode := by
  intro i hwf
  cases i with
  | hdrEnc | hdrDec | blkEnc | blkDec | plnEnc | plnDec | imgEnc | imgDec | blue
  | reserved0 | reserved10 | reserved11 | reserved12 | reserved13 | reserved14 | reserved15 => rfl
  | reservedUpper op zero => exact congrArg _ (decodeCmd_of_upper (bne_iff_ne.mp hwf))
  | header a w h => exact decodeHeader_hdrBytes a w h
  | encodedBlock a b => exact decodeData_encodedBlock hwf
  | stream a w h body => exact decodeStream_streamBytes hwf
  | pixel a r g b al => rfl
  | regCmd x | regStatus x | regWidth x | regHeight x | regBluemode x | regSrcLen x | regDstLen x =>
    exact (decode_encodeReg _ x).trans rfl

/-- Settles O7, by the three formats of a request. -/
theorem encodeOfDecode : Obligations.EncodeOfDecode := by
  intro r i hd
  cases r with
  | cmd c => cases hd; exact encode_decodeCmd c
  | regRead n => exact encode_of_register (register_of_decodeReg hd)
  | regWrite n v => exact encode_of_register (register_of_decodeReg hd)
  | put f a bs => exact encode_of_decodeData hd

/-- Settles O4: the nine values are computed; the others are those of `opOfCmd_of_reserved`. -/
theorem cmdValueSelectsOperation : Obligations.CmdValueSelectsOperation :=
  ⟨rfl, rfl, rfl, rfl, rfl, rfl, rfl, rfl, rfl,
    fun c hc => (operation_decodeCmd c).trans (congrArg some (opOfCmd_of_reserved hc)), operation_decodeCmd⟩

/-- Settles O11: bit `j` of index `k` is stream bit `3 * k + j` (`getLsbD_pack`, `getLsbD_unpack`). -/
theorem indexBitPositions : Obligations.IndexBitPositions := by
  have hpos : ∀ {k j : Nat}, k < 16 → j < 3 → 3 * k + j < 48 ∧ (3 * k + j) / 3 = k ∧ (3 * k + j) % 3 = j := by
    omega
  refine ⟨fun b _ => ⟨rfl, rfl, fun k j hk hj => ?_⟩, fun bs _ => ⟨rfl, rfl, fun k j hk hj => ?_⟩⟩ <;>
    obtain ⟨hlt, hindex, hbit⟩ := hpos hk hj
  · rw [getLsbD_pack b hlt, hindex, hbit]
  · rw [← getLsbD_unpack bs hlt, hindex, hbit]

/-- Settles O40: the rule of IMG_ENC reads the red and the green of the pixels alone (`imgEncode_congr_redGreen`). -/
theorem encodeIgnoresBlueAndAlpha : Obligations.EncodeIgnoresBlueAndAlpha := by
  intro s s' t hb _ hs' hsrc ht
  obtain ⟨m, rfl⟩ : ∃ m, s' = { s with src := m } := ⟨_, hs'⟩
  exact exec_imgEnc_withSrc hb hsrc ht

/-- Settles O5: the words are computed. -/
theorem handWrittenWordsDecode : Obligations.HandWrittenWordsDecode := by
  unfold Obligations.HandWrittenWordsDecode
  decide

/-- Settles O49: an idle WAIT is the STATUS read, a busy one a move of the CORE with the WAIT still next. -/
theorem waitPollsStatus : Obligations.WaitPollsStatus := by
  intro s rest hs
  rw [step_of_cons s _ rest hs]
  refine ⟨fun hb => ?_, fun hb => ⟨?_, ?_⟩⟩
  · rw [hostMove_wait_idle (s := { s with script := rest }) hb, accessReg_read_status]
  · rw [hostMove_wait_busy (s := { s with script := rest }) hb, ← hs]
  · obtain ⟨-, -, -, -, hscript, -⟩ := keepsInputs_coreMove s
    exact hscript

end

/-! The header operations (spec/40_header.md R122, R125, R126): what HDR_ENC and HDR_DEC complete with, and
the header that SRC holds. -/

namespace Sys2Proof.Machine

/-- The header in SRC is read from its twelve bytes: the magic first, then the two big-endian dimensions (R91, R123). -/
theorem srcHeader_of_le {s : State} (hlen : 12 ≤ s.srcLen.toNat) :
    s.srcHeader = if [s.srcByte 0, s.srcByte 1, s.srcByte 2, s.srcByte 3] = magic then
      some (s.dimInSrc 4, s.dimInSrc 8) else none := by
  have hparse : hdrParse (s.srcBytes 0 12) = if [s.srcByte 0, s.srcByte 1, s.srcByte 2, s.srcByte 3] = magic then
      some (s.dimInSrc 4, s.dimInSrc 8, []) else none := rfl
  rw [State.srcHeader, if_neg (Nat.not_lt.mpr hlen), hparse, apply_ite (Option.map _)]
  rfl

theorem magicInSrc_iff (s : State) :
    s.magicInSrc ↔ [s.srcByte 0, s.srcByte 1, s.srcByte 2, s.srcByte 3] = magic := by
  simp [State.magicInSrc, magic]

theorem srcHeader_of_short {s : State} (hlen : s.srcLen.toNat < 12) : s.srcHeader = none := if_pos hlen

theorem srcHeader_of_not_magicInSrc {s : State} (hmagic : ¬ s.magicInSrc) : s.srcHeader = none := by
  obtain hlen | hlen := Nat.lt_or_ge s.srcLen.toNat 12
  · exact srcHeader_of_short hlen
  · rw [srcHeader_of_le hlen, if_neg (mt (magicInSrc_iff s).mpr hmagic)]

theorem srcHeader_of_magicInSrc {s : State} (hlen : 12 ≤ s.srcLen.toNat) (hmagic : s.magicInSrc) :
    s.srcHeader = some (s.dimInSrc 4, s.dimInSrc 8) := by
  rw [srcHeader_of_le hlen, if_pos ((magicInSrc_iff s).mp hmagic)]

/-- The two capacity checks of R234. -/
theorem inputTooLong_iff (s : State) : s.inputTooLong = true ↔ s.params.srcCap.toNat < s.srcLen.toNat :=
  decide_eq_true_iff

theorem outputTooLong_iff (s : State) (n : Nat) : s.outputTooLong n = true ↔ s.params.dstCap.toNat < n :=
  decide_eq_true_iff

theorem hdrEncBody_of_small {s : State} (hcap : s.params.dstCap.toNat < 12) : hdrEncBody s = .error .capacity :=
  if_pos ((outputTooLong_iff s 12).mpr hcap)

theorem hdrEncBody_of_fits {s : State} (hcap : 12 ≤ s.params.dstCap.toNat) :
    hdrEncBody s = .ok { len := 12, out := hdrBytes s.width s.height, dims := none } :=
  if_neg (mt (outputTooLong_iff s 12).mp (Nat.not_lt.mpr hcap))

theorem hdrDecBody_of_overlong {s : State} (hlen : s.params.srcCap.toNat < s.srcLen.toNat) :
    hdrDecBody s = .error .capacity := if_pos ((inputTooLong_iff s).mpr hlen)

theorem hdrDecBody_of_noHeader {s : State} (hlen : s.srcLen.toNat ≤ s.params.srcCap.toNat)
    (hd : s.srcHeader = none) : hdrDecBody s = .error .format := by
  simp [hdrDecBody, inputTooLong_iff, Nat.not_lt.mpr hlen, hd]

theorem hdrDecBody_of_header {s : State} {w h : Dim} (hlen : s.srcLen.toNat ≤ s.params.srcCap.toNat)
    (hd : s.srcHeader = some (w, h)) : hdrDecBody s = .ok { len := 0, out := [], dims := some (w, h) } := by
  simp [hdrDecBody, inputTooLong_iff, Nat.not_lt.mpr hlen, hd]

end Sys2Proof.Machine

section

open Sys2Proof Sys2Proof.Machine

/-- Settles O10: the bytes in front of the remainder are the header's (`hdrParse_eq_some_iff`). -/
theorem headerRoundTrip : Obligations.HeaderRoundTrip := fun _ _ _ => hdrParse_eq_some_iff.mpr rfl

/-- Settles O27, by the one check of R122. -/
theorem hdrEncRule : Obligations.HdrEncRule := by
  refine ⟨rfl, fun s hb hwf => ⟨fun hcap => ?_, fun hcap => ?_⟩⟩
  · exact endsInError_of_body (op := .hdrEnc) rfl hb (hdrEncBody_of_small hcap)
  · exact succeeds_of_body (op := .hdrEnc) rfl hb hwf (hdrEncBody_of_fits hcap) fun _ _ => rfl

/-- Settles O28: SRC_LEN is checked first, then the header in SRC, which is absent below 12 bytes or without the
magic. -/
theorem hdrDecRule : Obligations.HdrDecRule := by
  refine ⟨rfl, fun s hb hwf => ⟨fun hlen => ?_, fun hlen => ?_⟩⟩
  · exact endsInError_of_body (op := .hdrDec) rfl hb (hdrDecBody_of_overlong hlen)
  · have format := fun hd => endsInError_of_body (i := .hdrDec) (op := .hdrDec) rfl hb
      (hdrDecBody_of_noHeader hlen hd)
    refine ⟨fun hshort => format (srcHeader_of_short hshort), fun hlong =>
      ⟨fun hmagic => format (srcHeader_of_not_magicInSrc hmagic), fun hmagic => ?_⟩⟩
    exact succeeds_of_body (op := .hdrDec) rfl hb hwf
      (hdrDecBody_of_header hlen (srcHeader_of_magicInSrc hlong hmagic)) nofun

end

/-! The interpolation of the two palettes (spec/41_block.md R143, R144): for an odd number of steps `n`, the weighted
mean of the endpoints rounded to the nearest integer. -/

namespace Sys2Proof.Machine

/-! ### Rounded interpolation -/

/-- Step `i` of `n` from `a` to `b`, rounded to the nearest integer. -/
def interp (n a b i : Nat) : Nat := (2 * ((n - i) * a + i * b) + n) / (2 * n)

/-- One step moves the weighted sum by `b - a`. -/
theorem weight_succ {n i : Nat} (hi : i < n) (a b : Nat) :
    (n - (i + 1)) * a + (i + 1) * b + a = (n - i) * a + i * b + b := by
  obtain ⟨k, rfl⟩ := Nat.exists_eq_add_of_lt hi
  rw [show i + k + 1 - (i + 1) = k by omega, show i + k + 1 - i = k + 1 by omega]
  ring

/-- The rounding is to the nearest integer, and no tie occurs since `n` is odd. -/
theorem interp_nearest {n : Nat} (hn : n % 2 = 1) (a b i : Nat) :
    2 * (n * interp n a b i) < 2 * ((n - i) * a + i * b) + n ∧
      2 * ((n - i) * a + i * b) < 2 * (n * interp n a b i) + n := by
  rw [interp]
  generalize (n - i) * a + i * b = w
  have hle := Nat.mul_div_le (2 * w + n) (2 * n)
  have hlt := Nat.lt_mul_div_succ (2 * w + n) (b := 2 * n) (by omega)
  rw [Nat.mul_succ, Nat.mul_assoc] at hlt
  rw [Nat.mul_assoc] at hle
  omega

theorem interp_self {n i : Nat} (hn : 0 < n) (hi : i ≤ n) (a : Nat) : interp n a a i = a := by
  rw [interp, ← Nat.add_mul, Nat.sub_add_cancel hi, ← Nat.mul_assoc, Nat.mul_add_div (by omega),
    Nat.div_eq_of_lt (by omega), Nat.add_zero]

theorem interp_reflect {n i : Nat} (hi : i ≤ n) (a b : Nat) : interp n a b (n - i) = interp n b a i := by
  rw [interp, interp, Nat.sub_sub_self hi, Nat.add_comm (i * a)]

theorem interp_zero {n : Nat} (hn : 0 < n) (a b : Nat) : interp n a b 0 = a := by
  calc interp n a b 0 = interp n a a 0 := by simp [interp]
    _ = a := interp_self hn (Nat.zero_le n) a

theorem interp_last {n : Nat} (hn : 0 < n) (a b : Nat) : interp n a b n = b :=
  (interp_reflect (Nat.zero_le n) a b).trans (interp_zero hn b a)

theorem interp_le_succ {n a b i : Nat} (hab : a ≤ b) (hi : i < n) : interp n a b i ≤ interp n a b (i + 1) := by
  have := weight_succ hi a b
  exact Nat.div_le_div_right (by omega)

theorem interp_succ_le {n a b i : Nat} (hba : b ≤ a) (hi : i < n) : interp n a b (i + 1) ≤ interp n a b i := by
  have := weight_succ hi a b
  exact Nat.div_le_div_right (by omega)

theorem interp_le {n a b c i : Nat} (hn : 0 < n) (hi : i ≤ n) (ha : a ≤ c) (hb : b ≤ c) : interp n a b i ≤ c := by
  rw [← interp_self hn hi c]
  exact Nat.div_le_div_right (Nat.add_le_add_right (Nat.mul_le_mul_left _
    (Nat.add_le_add (Nat.mul_le_mul_left _ ha) (Nat.mul_le_mul_left _ hb))) _)

/-- A sequence that starts at or below `s` and ends above it passes `s` in one step. -/
theorem exists_step_over {f : Nat → Nat} {s n : Nat} (h0 : f 0 ≤ s) (hn : s < f n) :
    ∃ i, i < n ∧ f i ≤ s ∧ s < f (i + 1) := by
  induction n with
  | zero => omega
  | succ n ih =>
    obtain hlt | hle := Nat.lt_or_ge s (f n)
    · obtain ⟨i, hi, hover⟩ := ih hlt
      exact ⟨i, by omega, hover⟩
    · exact ⟨n, by omega, hle, hn⟩

/-- Between the endpoints some step is within `(b - a) / n`. The steps on either side of `s` are less than
`(b - a) / n + 1` apart, so when both miss `s`, and so are at least 2 apart, one of them is near enough. -/
theorem exists_interp_near_of_le {n a b s : Nat} (hn : n % 2 = 1) (ha : a ≤ s) (hb : s ≤ b) :
    ∃ i, i ≤ n ∧ n * interp n a b i ≤ n * s + (b - a) ∧ n * s ≤ n * interp n a b i + (b - a) := by
  have hpos : 0 < n := by omega
  obtain rfl | hlt := Nat.eq_or_lt_of_le hb
  · exact ⟨n, Nat.le_refl n, by rw [interp_last hpos]; omega⟩
  obtain ⟨i, hi, hle, hgt⟩ := exists_step_over (f := interp n a b) (s := s) (n := n)
    (by rwa [interp_zero hpos]) (by rwa [interp_last hpos])
  have hstep := weight_succ hi a b
  obtain ⟨-, hbelow⟩ := interp_nearest hn a b i
  obtain ⟨habove, -⟩ := interp_nearest hn a b (i + 1)
  have hright := Nat.mul_le_mul_left n hgt
  obtain hnear | hfar := le_or_gt (n * s) (n * interp n a b i + (b - a))
  · exact ⟨i, hi.le, (Nat.mul_le_mul_left n hle).trans (Nat.le_add_right _ _), hnear⟩
  · have hleft := Nat.mul_le_mul_left n (Nat.lt_of_mul_lt_mul_left ((Nat.le_add_right _ _).trans_lt hfar))
    rw [Nat.succ_eq_add_one, Nat.mul_succ] at hleft hright
    exact ⟨i + 1, hi, by omega, by omega⟩

/-- Whichever endpoint is the greater (`r` is their distance), some step is within `r / n`. -/
theorem exists_interp_near {n a b r s : Nat} (hn : n % 2 = 1) (hs : s ∈ Set.uIcc a b)
    (hr : r = (a - b) + (b - a)) :
    ∃ i, i ≤ n ∧ n * interp n a b i ≤ n * s + r ∧ n * s ≤ n * interp n a b i + r := by
  obtain ⟨ha, hb⟩ | ⟨hb, ha⟩ := Set.mem_uIcc.mp hs
  · obtain rfl : r = b - a := by omega
    exact exists_interp_near_of_le hn ha hb
  · obtain rfl : r = a - b := by omega
    obtain ⟨i, hi, hnear⟩ := exists_interp_near_of_le hn hb ha
    exact ⟨n - i, Nat.sub_le n i, by rwa [interp_reflect hi]⟩

/-! ### The palettes (R143 to R145) -/

theorem toNat_ofNat_interp {n i : Nat} (hn : 0 < n) (hi : i ≤ n) (e0 e1 : Byte) :
    (BitVec.ofNat 8 (interp n e0.toNat e1.toNat i)).toNat = interp n e0.toNat e1.toNat i := by
  have hle := interp_le (c := 255) hn hi (Nat.le_of_lt_succ e0.isLt) (Nat.le_of_lt_succ e1.isLt)
  exact Nat.mod_eq_of_lt (Nat.lt_succ_of_le hle)

theorem pal8_getD_toNat (e0 e1 : Byte) {i : Nat} (hi : i ≤ 7) :
    ((pal8 e0 e1).getD i 0#8).toNat = interp 7 e0.toNat e1.toNat i := by
  have hentry : (pal8 e0 e1).getD i 0#8 = BitVec.ofNat 8 (interp 7 e0.toNat e1.toNat i) := by
    rw [List.getD_eq_getElem _ _ (by rw [pal8_length]; omega)]
    simp [pal8, interp]
  rw [hentry, toNat_ofNat_interp (by decide) hi]

theorem pal6_getD_toNat (e0 e1 : Byte) {i : Nat} (hi : i ≤ 5) :
    ((pal6 e0 e1).getD i 0#8).toNat = interp 5 e0.toNat e1.toNat i := by
  have hentry : (pal6 e0 e1).getD i 0#8 = BitVec.ofNat 8 (interp 5 e0.toNat e1.toNat i) := by
    rw [pal6, List.getD_append _ _ _ _ (by simpa using by omega),
      List.getD_eq_getElem _ _ (by simpa using by omega)]
    simp [interp]
  rw [hentry, toNat_ofNat_interp (by decide) hi]

theorem pal6_anchors (e0 e1 : Byte) : (pal6 e0 e1).getD 6 0#8 = 0#8 ∧ (pal6 e0 e1).getD 7 0#8 = 255#8 := ⟨rfl, rfl⟩

theorem palette_of_gt {e0 e1 : Byte} (h : e1.toNat < e0.toNat) : palette e0 e1 = pal8 e0 e1 := if_pos h

theorem palette_of_le {e0 e1 : Byte} (h : e0.toNat ≤ e1.toNat) : palette e0 e1 = pal6 e0 e1 :=
  if_neg (Nat.not_lt.mpr h)

/-- The number of steps between the endpoints of a palette, and so the position of its second endpoint. -/
def paletteSteps (e0 e1 : Byte) : Nat := if e1.toNat < e0.toNat then 7 else 5

theorem paletteSteps_of_gt {e0 e1 : Byte} (h : e1.toNat < e0.toNat) : paletteSteps e0 e1 = 7 := if_pos h

theorem paletteSteps_of_le {e0 e1 : Byte} (h : e0.toNat ≤ e1.toNat) : paletteSteps e0 e1 = 5 :=
  if_neg (Nat.not_lt.mpr h)

theorem paletteSteps_cases (e0 e1 : Byte) : paletteSteps e0 e1 = 7 ∨ paletteSteps e0 e1 = 5 := ite_eq_or_eq ..

theorem paletteSteps_pos (e0 e1 : Byte) : 0 < paletteSteps e0 e1 := by
  have := paletteSteps_cases e0 e1
  omega

theorem paletteSteps_odd (e0 e1 : Byte) : paletteSteps e0 e1 % 2 = 1 := by
  have := paletteSteps_cases e0 e1
  omega

theorem paletteSteps_lt (e0 e1 : Byte) : paletteSteps e0 e1 < 8 := by
  have := paletteSteps_cases e0 e1
  omega

theorem palette_getD_toNat {e0 e1 : Byte} {i : Nat} (hi : i ≤ paletteSteps e0 e1) :
    ((palette e0 e1).getD i 0#8).toNat = interp (paletteSteps e0 e1) e0.toNat e1.toNat i := by
  obtain h | h := Nat.lt_or_ge e1.toNat e0.toNat
  · rw [paletteSteps_of_gt h] at hi ⊢
    rw [palette_of_gt h, pal8_getD_toNat e0 e1 hi]
  · rw [paletteSteps_of_le h] at hi ⊢
    rw [palette_of_le h, pal6_getD_toNat e0 e1 hi]

theorem palette_first (e0 e1 : Byte) : (palette e0 e1).getD 0 0#8 = e0 := BitVec.eq_of_toNat_eq <|
  (palette_getD_toNat (Nat.zero_le _)).trans (interp_zero (paletteSteps_pos e0 e1) _ _)

theorem palette_last (e0 e1 : Byte) : (palette e0 e1).getD (paletteSteps e0 e1) 0#8 = e1 := BitVec.eq_of_toNat_eq <|
  (palette_getD_toNat (Nat.le_refl _)).trans (interp_last (paletteSteps_pos e0 e1) _ _)

end Sys2Proof.Machine

/-! The index assignment (spec/41_block.md R147, R148). -/

namespace Sys2Proof.Machine

/-! ### The nearest entry -/

theorem absDiff_eq_natAbs (s p : Byte) : absDiff s p = ((s.toNat : Int) - p.toNat).natAbs := by
  unfold absDiff
  omega

/-- The test of R147: entry `i` is no further from the sample than any entry. -/
def noneNearer (pal : List Byte) (s : Byte) (i : Nat) : Bool :=
  (List.range 8).all fun j => decide (absDiff s (pal.getD i 0#8) ≤ absDiff s (pal.getD j 0#8))

theorem noneNearer_iff {pal : List Byte} {s : Byte} {i : Nat} :
    noneNearer pal s i = true ↔ ∀ j, j < 8 → absDiff s (pal.getD i 0#8) ≤ absDiff s (pal.getD j 0#8) := by
  simp only [noneNearer, List.all_eq_true, List.mem_range, decide_eq_true_eq]

theorem nearest_eq_find (pal : List Byte) (s : Byte) :
    nearest pal s = BitVec.ofNat 3 (((List.range 8).find? (noneNearer pal s)).getD 0) := rfl

/-- The eight distances have a least, so the search of R147 ends, and at the first entry that passes its test. -/
theorem nearest_isLeast (pal : List Byte) (s : Byte) :
    noneNearer pal s (nearest pal s).toNat = true ∧
      ∀ i, i < (nearest pal s).toNat → noneNearer pal s i = false := by
  obtain ⟨m, hm, hmin⟩ :=
    Finset.exists_min_image (Finset.range 8) (fun j => absDiff s (pal.getD j 0#8)) ⟨0, by decide⟩
  simp only [Finset.mem_range] at hm hmin
  have hfound := List.find?_isSome.mpr ⟨m, List.mem_range.mpr hm, noneNearer_iff.mpr hmin⟩
  obtain ⟨i, hi⟩ := Option.isSome_iff_exists.mp hfound
  obtain ⟨hbest, hlt, hleast⟩ := List.find?_range_eq_some.mp hi
  have hnearest : (nearest pal s).toNat = i := by
    rw [nearest_eq_find, hi]
    exact Nat.mod_eq_of_lt (List.mem_range.mp hlt)
  rw [hnearest]
  exact ⟨hbest, fun j hj => Bool.not_eq_true' _ ▸ hleast j hj⟩

theorem absDiff_nearest_le (pal : List Byte) (s : Byte) {j : Nat} (hj : j < 8) :
    absDiff s (pal.getD (nearest pal s).toNat 0#8) ≤ absDiff s (pal.getD j 0#8) :=
  noneNearer_iff.mp (nearest_isLeast pal s).1 j hj

/-- A lower index than the chosen one is further than the chosen one. -/
theorem absDiff_nearest_lt {pal : List Byte} {s : Byte} {i : Nat} (hi : i < (nearest pal s).toNat) :
    absDiff s (pal.getD (nearest pal s).toNat 0#8) < absDiff s (pal.getD i 0#8) := by
  refine Nat.lt_of_not_le fun hle => ?_
  have hbest := noneNearer_iff.mpr fun j hj => hle.trans (absDiff_nearest_le pal s hj)
  rw [(nearest_isLeast pal s).2 i hi] at hbest
  cases hbest

/-! ### What a sample decodes to -/

/-- The entry the encoder chooses for a sample. -/
def nearestEntry (pal : List Byte) (s : Byte) : Byte := paletteEntry pal (nearest pal s)

theorem absDiff_comm (s p : Byte) : absDiff s p = absDiff p s := Nat.add_comm _ _

theorem absDiff_eq_zero_iff {s p : Byte} : absDiff s p = 0 ↔ p = s := by
  rw [← BitVec.toNat_inj, absDiff]
  omega

theorem nearestEntry_of_getD {pal : List Byte} {j : Nat} {s : Byte} (hj : j < 8) (h : pal.getD j 0#8 = s) :
    nearestEntry pal s = s := by
  have hle := absDiff_nearest_le pal s hj
  rw [absDiff_eq_zero_iff.mpr h, Nat.le_zero] at hle
  exact absDiff_eq_zero_iff.mp hle

@[simp] theorem nearestEntry_first (e0 e1 : Byte) : nearestEntry (palette e0 e1) e0 = e0 :=
  nearestEntry_of_getD (by decide) (palette_first e0 e1)

@[simp] theorem nearestEntry_last (e0 e1 : Byte) : nearestEntry (palette e0 e1) e1 = e1 :=
  nearestEntry_of_getD (paletteSteps_lt e0 e1) (palette_last e0 e1)

theorem nearest_first (e0 e1 : Byte) : nearest (palette e0 e1) e0 = 0#3 := by
  refine BitVec.eq_of_toNat_eq (Nat.eq_zero_of_not_pos fun hpos => ?_)
  have hlt := absDiff_nearest_lt hpos
  rw [absDiff_eq_zero_iff.mpr (palette_first e0 e1)] at hlt
  exact Nat.not_lt_zero _ hlt

/-- Both endpoints are entries, so no entry outside them is nearer to a sample between them. -/
theorem nearestEntry_mem_uIcc {e0 e1 s : Byte} (hs : s.toNat ∈ Set.uIcc e0.toNat e1.toNat) :
    (nearestEntry (palette e0 e1) s).toNat ∈ Set.uIcc e0.toNat e1.toNat := by
  have h0 := absDiff_nearest_le (palette e0 e1) s (j := 0) (by decide)
  have h1 := absDiff_nearest_le (palette e0 e1) s (paletteSteps_lt e0 e1)
  rw [palette_first] at h0
  rw [palette_last] at h1
  rw [Set.mem_uIcc] at hs ⊢
  rw [nearestEntry, paletteEntry]
  unfold absDiff at h0 h1
  omega

/-- R159: a sample between the endpoints is reproduced to within one step. -/
theorem nearestEntry_error {e0 e1 s : Byte} (hs : s.toNat ∈ Set.uIcc e0.toNat e1.toNat) :
    paletteSteps e0 e1 * absDiff (nearestEntry (palette e0 e1) s) s ≤ absDiff e0 e1 := by
  obtain ⟨i, hi, habove, hbelow⟩ := exists_interp_near (paletteSteps_odd e0 e1) hs (r := absDiff e0 e1) rfl
  have hnearest := absDiff_nearest_le (palette e0 e1) s (hi.trans_lt (paletteSteps_lt e0 e1))
  rw [← palette_getD_toNat hi] at habove hbelow
  calc paletteSteps e0 e1 * absDiff (nearestEntry (palette e0 e1) s) s
      = paletteSteps e0 e1 * absDiff s (nearestEntry (palette e0 e1) s) := by rw [absDiff_comm]
    _ ≤ paletteSteps e0 e1 * absDiff s ((palette e0 e1).getD i 0#8) := Nat.mul_le_mul_left _ hnearest
    _ ≤ absDiff e0 e1 := by
      simp only [absDiff, Nat.mul_add, Nat.mul_sub] at habove hbelow ⊢
      omega

/-- R158: an anchor is no nearer than the endpoint on its side, and the endpoints have lower indices. -/
theorem nearest_pal6_lt {e0 e1 s : Byte} (h0 : e0.toNat ≤ s.toNat) (h1 : s.toNat ≤ e1.toNat) :
    (nearest (pal6 e0 e1) s).toNat < 6 := by
  obtain ⟨hanchor0, hanchor1⟩ := pal6_anchors e0 e1
  have hle := h0.trans h1
  have hfirst : (pal6 e0 e1).getD 0 0#8 = e0 := palette_of_le hle ▸ palette_first e0 e1
  have hlast : (pal6 e0 e1).getD 5 0#8 = e1 := by
    rw [← palette_of_le hle, ← paletteSteps_of_le hle, palette_last]
  have hlower := fun i => absDiff_nearest_lt (pal := pal6 e0 e1) (s := s) (i := i)
  have hindex := (nearest (pal6 e0 e1) s).isLt
  obtain hlt | h6 | h7 : (nearest (pal6 e0 e1) s).toNat < 6 ∨ (nearest (pal6 e0 e1) s).toNat = 6 ∨
      (nearest (pal6 e0 e1) s).toNat = 7 := by omega
  · exact hlt
  · have hcloser := hlower 0 (by omega)
    rw [h6, hanchor0, hfirst, absDiff, absDiff, BitVec.toNat_ofNat] at hcloser
    omega
  · have hcloser := hlower 5 (by omega)
    rw [h7, hanchor1, hlast, absDiff, absDiff, BitVec.toNat_ofNat] at hcloser
    omega

end Sys2Proof.Machine

/-! The block encoder and decoder (spec/41_block.md R141, R148 to R159). -/

namespace Sys2Proof.Machine

/-! ### The extremes of a block (R141) -/

/-- The fold of R141 for either order of the bytes, the one that `key` gives. -/
theorem key_foldr_le {lt : Byte → Byte → Prop} [DecidableRel lt] {key : Byte → Int}
    (hkey : ∀ a b, lt a b ↔ key a < key b) (e : Byte) {ss : List Byte} {s : Byte} (hs : s ∈ ss) :
    key (ss.foldr (fun s m => if lt s m then s else m) e) ≤ key s := by
  induction ss with
  | nil => cases hs
  | cons t ss ih =>
    rw [List.foldr_cons]
    obtain rfl | hs := List.mem_cons.mp hs
    · split
      next => exact Int.le_refl _
      next hlt => exact Int.not_lt.mp (mt (hkey _ _).mpr hlt)
    · split
      next hlt => exact ((hkey _ _).mp hlt).le.trans (ih hs)
      next => exact ih hs

/-- The fold of R141 starts from the last byte of its order, and so gives a sample. -/
theorem foldr_select_mem {lt : Byte → Byte → Prop} [DecidableRel lt] {e : Byte} (he : ∀ s, lt s e ∨ s = e)
    {ss : List Byte} (hss : ss ≠ []) : ss.foldr (fun s m => if lt s m then s else m) e ∈ ss := by
  induction ss with
  | nil => exact absurd rfl hss
  | cons t ss ih =>
    rw [List.foldr_cons]
    split
    next => exact List.mem_cons_self
    next hlt =>
      cases ss with
      | nil => exact List.mem_singleton.mpr ((he t).resolve_left hlt).symm
      | cons u ss => exact List.mem_cons_of_mem _ (ih (List.cons_ne_nil u ss))

theorem blockMin_le {ss : List Byte} {s : Byte} (hs : s ∈ ss) : (blockMin ss).toNat ≤ s.toNat :=
  Int.ofNat_le.mp (key_foldr_le (lt := (· < ·)) (key := fun b => (b.toNat : Int))
    (fun _ _ => Int.ofNat_lt.symm) 255#8 hs)

theorem le_blockMax {ss : List Byte} {s : Byte} (hs : s ∈ ss) : s.toNat ≤ (blockMax ss).toNat :=
  Int.ofNat_le.mp (Int.neg_le_neg_iff.mp (key_foldr_le (lt := fun s m => m < s) (key := fun b => -(b.toNat : Int))
    (fun _ _ => Int.ofNat_lt.symm.trans Int.neg_lt_neg_iff.symm) 0#8 hs))

theorem blockMin_mem {ss : List Byte} (hss : ss ≠ []) : blockMin ss ∈ ss :=
  foldr_select_mem (lt := (· < ·)) (by decide) hss

theorem blockMax_mem {ss : List Byte} (hss : ss ≠ []) : blockMax ss ∈ ss :=
  foldr_select_mem (lt := fun s m => m < s) (by decide) hss

theorem blockMin_eq {ss : List Byte} {lo : Byte} (hmem : lo ∈ ss) (hle : ∀ s ∈ ss, lo.toNat ≤ s.toNat) :
    blockMin ss = lo :=
  BitVec.eq_of_toNat_eq (Nat.le_antisymm (blockMin_le hmem) (hle _ (blockMin_mem (List.ne_nil_of_mem hmem))))

theorem blockMax_eq {ss : List Byte} {hi : Byte} (hmem : hi ∈ ss) (hle : ∀ s ∈ ss, s.toNat ≤ hi.toNat) :
    blockMax ss = hi :=
  BitVec.eq_of_toNat_eq (Nat.le_antisymm (hle _ (blockMax_mem (List.ne_nil_of_mem hmem))) (le_blockMax hmem))

/-! ### The candidates (R148, R149) -/

theorem map_range_getD {ss : List Byte} {n : Nat} (hlen : ss.length = n) :
    (List.range n).map (fun k => ss.getD k 0#8) = ss := by
  refine List.ext_getElem (by simp [hlen]) fun k _ hk => ?_
  simp [hk]

/-- R148: the squared error, sample by sample. -/
theorem squaredError_eq_sum (pal : List Byte) {ss : List Byte} {n : Nat} (hlen : ss.length = n) :
    (squaredError pal ss : Int) = ((List.range n).map fun k =>
      (((ss.getD k 0#8).toNat : Int) - (pal.getD (nearest pal (ss.getD k 0#8)).toNat 0#8).toNat) ^ 2).sum := by
  have hsquares : (squaredError pal ss : Int) =
      (ss.map fun s => ((s.toNat : Int) - (paletteEntry pal (nearest pal s)).toNat) ^ 2).sum := by
    rw [squaredError, Nat.cast_list_sum, List.map_map]
    exact congrArg List.sum (List.map_congr_left fun s _ => (Nat.cast_pow _ _).trans (absDiff_sq _ _))
  rw [hsquares]
  conv_lhs => rw [← map_range_getD hlen, List.map_map]
  rfl

theorem squaredError_le (pal ss : List Byte) : squaredError pal ss ≤ ss.length * 255 ^ 2 := by
  have hsum := List.sum_le_card_nsmul (ss.map fun s => absDiff s (paletteEntry pal (nearest pal s)) ^ 2) (255 ^ 2)
    (by simpa using fun s _ => Nat.pow_le_pow_left (absDiff_le s _) 2)
  simpa [squaredError] using hsum

theorem candidate_idx_getD (e0 e1 : Byte) {ss : List Byte} {k : Nat} (hk : k < ss.length) :
    (candidate e0 e1 ss).block.idx.getD k 0#3 = nearest (palette e0 e1) (ss.getD k 0#8) := by
  simp [candidate, hk]

theorem chooseMode_first {tie : ModeTie} {c8 c6 : Candidate}
    (h : c8.sse < c6.sse ∨ c8.sse = c6.sse ∧ tie = .eight) : chooseMode tie c8 c6 = c8 := by
  obtain hlt | ⟨heq, rfl⟩ := h
  · exact if_pos hlt
  · simp [chooseMode, heq]

theorem chooseMode_second {tie : ModeTie} {c8 c6 : Candidate}
    (h : c6.sse < c8.sse ∨ c8.sse = c6.sse ∧ tie = .six) : chooseMode tie c8 c6 = c6 := by
  obtain hlt | ⟨heq, rfl⟩ := h
  · simp [chooseMode, hlt, hlt.le]
  · simp [chooseMode, heq]

theorem chooseMode_eq_or (tie : ModeTie) (c8 c6 : Candidate) :
    chooseMode tie c8 c6 = c8 ∨ chooseMode tie c8 c6 = c6 := by
  obtain hlt | heq | hgt := Nat.lt_trichotomy c8.sse c6.sse
  · exact .inl (chooseMode_first (.inl hlt))
  · cases tie with
    | eight => exact .inl (chooseMode_first (.inr ⟨heq, rfl⟩))
    | six => exact .inr (chooseMode_second (.inr ⟨heq, rfl⟩))
  · exact .inr (chooseMode_second (.inl hgt))

/-! ### Encoding and decoding (R142, R150, R153, R154) -/

theorem encodeSamples_of_uniform (tie : ModeTie) {ss : List Byte} (h : blockMin ss = blockMax ss) :
    encodeSamples tie ss = { e0 := blockMin ss, e1 := blockMin ss, idx := List.replicate 16 0#3 } := if_pos h

theorem encodeSamples_of_ne (tie : ModeTie) {ss : List Byte} (h : blockMin ss ≠ blockMax ss) :
    encodeSamples tie ss = (chooseMode tie (candidate (blockMax ss) (blockMin ss) ss)
      (candidate (blockMin ss) (blockMax ss) ss)).block := if_neg h

theorem pack_zeros (e0 e1 : Byte) :
    pack { e0 := e0, e1 := e1, idx := List.replicate 16 0#3 } = [e0, e1, 0#8, 0#8, 0#8, 0#8, 0#8, 0#8] := by
  have hbytes : ((List.range 6).map fun m => BitVec.ofNat 8 (bits48OfIndices (List.replicate 16 0#3) >>> (8 * m))) =
      [0#8, 0#8, 0#8, 0#8, 0#8, 0#8] := by decide
  exact congrArg (e0 :: e1 :: ·) hbytes

theorem blkDecode_pack {b : EncodedBlock} (hb : b.wellFormed = true) :
    blkDecode (pack b) = b.idx.map (paletteEntry (palette b.e0 b.e1)) := by rw [blkDecode, unpack_pack hb]

theorem blkDecode_candidate (e0 e1 : Byte) {ss : List Byte} (hlen : ss.length = 16) :
    blkDecode (pack (candidate e0 e1 ss).block) = ss.map (nearestEntry (palette e0 e1)) := by
  rw [blkDecode_pack (by simp [EncodedBlock.wellFormed, candidate, hlen])]
  exact List.map_map

/-- The endpoints of either candidate: the extremes of the block, in either order (R149). -/
def extremes (ss : List Byte) (e0 e1 : Byte) : Prop :=
  (e0 = blockMax ss ∧ e1 = blockMin ss) ∨ (e0 = blockMin ss ∧ e1 = blockMax ss)

theorem mem_of_extremes {ss : List Byte} {e0 e1 : Byte} (h : extremes ss e0 e1) (hss : ss ≠ []) :
    e0 ∈ ss ∧ e1 ∈ ss := by
  obtain ⟨rfl, rfl⟩ | ⟨rfl, rfl⟩ := h
  · exact ⟨blockMax_mem hss, blockMin_mem hss⟩
  · exact ⟨blockMin_mem hss, blockMax_mem hss⟩

theorem uIcc_of_extremes {ss : List Byte} {e0 e1 : Byte} (h : extremes ss e0 e1) (hss : ss ≠ []) :
    Set.uIcc e0.toNat e1.toNat = Set.Icc (blockMin ss).toNat (blockMax ss).toNat := by
  have hle := blockMin_le (blockMax_mem hss)
  obtain ⟨rfl, rfl⟩ | ⟨rfl, rfl⟩ := h
  · exact Set.uIcc_of_ge hle
  · exact Set.uIcc_of_le hle

theorem mem_uIcc_of_extremes {ss : List Byte} {e0 e1 s : Byte} (h : extremes ss e0 e1) (hs : s ∈ ss) :
    s.toNat ∈ Set.uIcc e0.toNat e1.toNat := by
  rw [uIcc_of_extremes h (List.ne_nil_of_mem hs)]
  exact ⟨blockMin_le hs, le_blockMax hs⟩

theorem absDiff_of_extremes {ss : List Byte} {e0 e1 : Byte} (h : extremes ss e0 e1) (hss : ss ≠ []) :
    absDiff e0 e1 = (blockMax ss).toNat - (blockMin ss).toNat := by
  have hle := blockMin_le (blockMax_mem hss)
  obtain ⟨rfl, rfl⟩ | ⟨rfl, rfl⟩ := h <;> rw [absDiff] <;> omega

/-- The extremes are entries of the palette and no sample leaves their range, so they are the extremes of the decoded
block (R159). -/
theorem blockRange_nearestEntry {ss : List Byte} {e0 e1 : Byte} (h : extremes ss e0 e1) (hss : ss ≠ []) :
    blockMin (ss.map (nearestEntry (palette e0 e1))) = blockMin ss ∧
      blockMax (ss.map (nearestEntry (palette e0 e1))) = blockMax ss := by
  have hfixed : nearestEntry (palette e0 e1) (blockMin ss) = blockMin ss ∧
      nearestEntry (palette e0 e1) (blockMax ss) = blockMax ss := by
    obtain ⟨rfl, rfl⟩ | ⟨rfl, rfl⟩ := h <;> simp
  have hrange : ∀ p ∈ ss.map (nearestEntry (palette e0 e1)),
      (blockMin ss).toNat ≤ p.toNat ∧ p.toNat ≤ (blockMax ss).toNat := by
    intro p hp
    obtain ⟨s, hs, rfl⟩ := List.mem_map.mp hp
    have hentry := nearestEntry_mem_uIcc (mem_uIcc_of_extremes h hs)
    rwa [uIcc_of_extremes h hss] at hentry
  exact ⟨blockMin_eq (List.mem_map.mpr ⟨_, blockMin_mem hss, hfixed.1⟩) fun p hp => (hrange p hp).1,
    blockMax_eq (List.mem_map.mpr ⟨_, blockMax_mem hss, hfixed.2⟩) fun p hp => (hrange p hp).2⟩

/-- Every block the encoder produces is a candidate's, also that of a uniform block (R142), whose samples are all the
entry 0 of its palette. -/
theorem encodeSamples_eq_candidate (tie : ModeTie) {ss : List Byte} (hlen : ss.length = 16) :
    ∃ e0 e1, extremes ss e0 e1 ∧ encodeSamples tie ss = (candidate e0 e1 ss).block := by
  obtain huniform | hne := eq_or_ne (blockMin ss) (blockMax ss)
  · refine ⟨_, _, .inr ⟨rfl, rfl⟩, ?_⟩
    have hsamples : ss = List.replicate 16 (blockMin ss) := List.eq_replicate_iff.mpr ⟨hlen, fun s hs =>
      BitVec.eq_of_toNat_eq (Nat.le_antisymm (huniform ▸ le_blockMax hs) (blockMin_le hs))⟩
    have hidx : ss.map (nearest (palette (blockMin ss) (blockMin ss))) = List.replicate 16 0#3 := by
      conv_lhs => rw [hsamples, List.map_replicate, ← hsamples, nearest_first]
    rw [encodeSamples_of_uniform tie huniform, candidate, ← huniform, hidx]
  · rw [encodeSamples_of_ne tie hne]
    obtain h | h := chooseMode_eq_or tie (candidate (blockMax ss) (blockMin ss) ss)
      (candidate (blockMin ss) (blockMax ss) ss)
    · exact ⟨_, _, .inl ⟨rfl, rfl⟩, congrArg _ h⟩
    · exact ⟨_, _, .inr ⟨rfl, rfl⟩, congrArg _ h⟩

/-- R152: index `k` of a block is three bits of its number of 48. -/
theorem unpack_idx_getD_toNat (bs : List Byte) {k : Nat} (hk : k < 16) :
    ((unpack bs).idx.getD k 0#3).toNat = bits48OfBytes ((bs.drop 2).take 6) / 2 ^ (3 * k) % 8 := by
  rw [unpack, List.getD_eq_getElem _ _ (by simpa)]
  simp [Nat.shiftRight_eq_div_pow]

theorem blkDecode_getD (bs : List Byte) {k : Nat} (hk : k < 16) :
    (blkDecode bs).getD k 0#8 =
      paletteEntry (palette (unpack bs).e0 (unpack bs).e1) ((unpack bs).idx.getD k 0#3) := by
  simp [blkDecode, hk]

/-! ### BLK_ENC and BLK_DEC (R155, R156) -/

/-- An operation on `n` bytes of input and `m` of output: the checks of R155 and R156, in their order. -/
def fixedSizeBody (n m : Nat) (e : ErrKind) (out : List Byte) (s : State) : Except ErrKind Completion :=
  if s.inputTooLong then .error .capacity
  else if s.srcLen.toNat ≠ n then .error e
  else if s.outputTooLong m then .error .capacity
  else .ok { len := m, out := out, dims := none }

theorem opBody_blkEnc (s : State) : opBody .blkEnc s =
    fixedSizeBody 16 8 .dimension (blkEncode s.params.modeTie (s.srcBytes 0 16)) s := rfl

theorem opBody_blkDec (s : State) :
    opBody .blkDec s = fixedSizeBody 8 16 .format (blkDecode (s.srcBytes 0 8)) s := rfl

/-- The end of such an operation in each outcome of its checks. -/
theorem fixedSizeBody_rule {i : Instr} {op : Op} {s : State} {n m : Nat} {e : ErrKind} {out : List Byte}
    (hi : i.operation = some op) (hb : s.busy = false) (hwf : s.dst.wf = true)
    (ho : opBody op s = fixedSizeBody n m e out s) :
    (s.params.srcCap.toNat < s.srcLen.toNat → endsInError i s (statusDoneErr .capacity)) ∧
    (s.srcLen.toNat ≤ s.params.srcCap.toNat →
      (s.srcLen.toNat ≠ n → endsInError i s (statusDoneErr e)) ∧
      (s.srcLen.toNat = n →
        (s.params.dstCap.toNat < m → endsInError i s (statusDoneErr .capacity)) ∧
        (m ≤ s.params.dstCap.toNat → succeeds i s m (fun a => out.getD a 0#8) s.width s.height))) := by
  simp only [fixedSizeBody, inputTooLong_iff, outputTooLong_iff] at ho
  refine ⟨fun hlong => ?_, fun hlen => ?_⟩
  · exact endsInError_of_body hi hb (ho.trans (if_pos hlong))
  rw [if_neg (Nat.not_lt.mpr hlen)] at ho
  refine ⟨fun hne => endsInError_of_body hi hb (ho.trans (if_pos hne)), fun heq => ?_⟩
  rw [if_neg (not_not_intro heq)] at ho
  refine ⟨fun hsmall => endsInError_of_body hi hb (ho.trans (if_pos hsmall)), fun hfits => ?_⟩
  rw [if_neg (Nat.not_lt.mpr hfits)] at ho
  exact succeeds_of_body hi hb hwf ho fun _ _ => rfl

end Sys2Proof.Machine

section

open Sys2Proof Sys2Proof.Machine

/-- Settles O12, by the one stream of 48 bits that both are (`unpack_pack`, `pack_unpack`). -/
theorem packUnpackInverse : Obligations.PackUnpackInverse :=
  ⟨fun b hb => ⟨pack_length b, unpack_pack hb⟩, fun bs hlen => ⟨unpack_wellFormed bs, pack_unpack hlen⟩⟩

/-- Settles O13: each entry is a step of the interpolation (`pal8_getD_toNat`), whose odd divisor leaves no tie. -/
theorem eightStepPalette : Obligations.EightStepPalette := by
  intro e0 e1 i hi
  have hentry := fun j => pal8_getD_toNat e0 e1 (i := j)
  obtain ⟨hlow, hhigh⟩ := interp_nearest (n := 7) (by decide) e0.toNat e1.toNat i
  rw [← hentry i (by omega)] at hlow hhigh
  refine ⟨hentry i (by omega), hlow, hhigh, ?_, ?_, fun h hi => ?_⟩
  · exact BitVec.eq_of_toNat_eq ((hentry 0 (by decide)).trans (interp_zero (by decide) _ _))
  · exact BitVec.eq_of_toNat_eq ((hentry 7 (by decide)).trans (interp_last (by decide) _ _))
  · rw [BitVec.le_def, hentry i (by omega), hentry (i + 1) (by omega)]
    exact interp_succ_le (BitVec.lt_def.mp h).le hi

/-- Settles O14: likewise with five steps (`pal6_getD_toNat`), and the two anchors. -/
theorem sixStepPalette : Obligations.SixStepPalette := by
  intro e0 e1 i hi
  have hentry := fun j => pal6_getD_toNat e0 e1 (i := j)
  obtain ⟨hlow, hhigh⟩ := interp_nearest (n := 5) (by decide) e0.toNat e1.toNat i
  rw [← hentry i (by omega)] at hlow hhigh
  obtain ⟨h6, h7⟩ := pal6_anchors e0 e1
  refine ⟨hentry i (by omega), hlow, hhigh, ?_, ?_, h6, h7, fun h hi => ?_, ?_⟩
  · exact BitVec.eq_of_toNat_eq ((hentry 0 (by decide)).trans (interp_zero (by decide) _ _))
  · exact BitVec.eq_of_toNat_eq ((hentry 5 (by decide)).trans (interp_last (by decide) _ _))
  · rw [BitVec.le_def, hentry i (by omega), hentry (i + 1) (by omega)]
    exact interp_le_succ (BitVec.le_def.mp h) hi
  · rintro rfl
    exact BitVec.eq_of_toNat_eq ((hentry i (by omega)).trans (interp_self (by decide) (by omega) _))

/-- Settles O15, by the comparison of the endpoints, and step 0 of either interpolation (`palette_first`). -/
theorem paletteModeByEndpointOrder : Obligations.PaletteModeByEndpointOrder :=
  fun e0 e1 => ⟨palette_of_gt, palette_of_le, palette_first e0 e1⟩

/-- Settles O16, by the search of R147 (`nearest_isLeast`): a lower index loses to the chosen one. -/
theorem nearestIsLeastBest : Obligations.NearestIsLeastBest := by
  intro pal s _
  simp only [← absDiff_eq_natAbs]
  exact ⟨fun j => absDiff_nearest_le pal s, fun i hi => ⟨_, (nearest pal s).isLt, absDiff_nearest_lt hi⟩⟩

/-- Settles O17: the index is cut from the number that the six bytes write (`unpack_idx_getD_toNat`). -/
theorem blockDecodeLooksUpPalette : Obligations.BlockDecodeLooksUpPalette := by
  intro b0 b1 b2 b3 b4 b5 b6 b7
  refine ⟨blkDecode_length _, fun k hk => ?_⟩
  have hfield : bits48OfBytes [b2, b3, b4, b5, b6, b7] = b2.toNat + b3.toNat * 2 ^ 8 + b4.toNat * 2 ^ 16 +
      b5.toNat * 2 ^ 24 + b6.toNat * 2 ^ 32 + b7.toNat * 2 ^ 40 := by
    simp only [bits48OfBytes, List.foldr]
    omega
  rw [blkDecode_getD _ hk, paletteEntry, unpack_idx_getD_toNat _ hk, ← hfield]
  rfl

/-- Settles O18: `lo` and `hi` are the block's extremes, the sums are the candidates' errors
(`squaredError_eq_sum`), and the mode is chosen by them. -/
theorem encoderTakesLowerError : Obligations.EncoderTakesLowerError := by
  intro tie ss lo hi sse8 sse6 hlen hlo hhi hrange h8 h6
  obtain rfl : blockMin ss = lo := blockMin_eq hlo fun s hs => BitVec.le_def.mp (hrange s hs).1
  obtain rfl : blockMax ss = hi := blockMax_eq hhi fun s hs => BitVec.le_def.mp (hrange s hs).2
  refine ⟨fun heq => ?_, fun hne => ?_⟩
  · rw [blkEncode, encodeSamples_of_uniform tie heq, pack_zeros]
  · have hlt : (blockMin ss).toNat < (blockMax ss).toNat :=
      (blockMin_le hhi).lt_of_ne (mt BitVec.eq_of_toNat_eq hne)
    rw [← squaredError_eq_sum _ hlen, ← palette_of_gt hlt] at h8
    rw [← squaredError_eq_sum _ hlen, ← palette_of_le hlt.le] at h6
    rw [blkEncode, encodeSamples_of_ne tie hne, ← palette_of_gt hlt, ← palette_of_le hlt.le]
    subst h8 h6
    refine ⟨fun h => ?_, fun h => ?_⟩
    · rw [chooseMode_first (by exact_mod_cast h)]
      rfl
    · rw [chooseMode_second (by exact_mod_cast h)]
      rfl

/-- Settles O55, by `squaredError_eq_sum` with the candidate's own indices, and 255 as the greatest difference. -/
theorem candidateSquaredError : Obligations.CandidateSquaredError := by
  intro e0 e1 ss hlen
  have hidx := fun k (hk : k < 16) => candidate_idx_getD e0 e1 (ss := ss) (k := k) (hlen ▸ hk)
  refine ⟨?_, hidx, ?_⟩
  · refine (squaredError_eq_sum (palette e0 e1) hlen).trans
      (congrArg List.sum (List.map_congr_left fun k hk => ?_))
    rw [hidx k (List.mem_range.mp hk)]
  · exact (squaredError_le (palette e0 e1) ss).trans (by simp [hlen])

/-- Settles O19: the one sample is an endpoint of its block, and so an entry of the palette. -/
theorem degenerateBlockExact : Obligations.DegenerateBlockExact := by
  intro tie v
  have hlen : (List.replicate 16 v).length = 16 := List.length_replicate
  obtain ⟨e0, e1, hext, henc⟩ := encodeSamples_eq_candidate tie hlen
  obtain rfl : e0 = v := List.eq_of_mem_replicate (mem_of_extremes hext (by simp)).1
  rw [blkEncode, henc, blkDecode_candidate _ _ hlen, List.map_replicate, nearestEntry_first]

/-- Settles O20: the samples lie between the endpoints, where no anchor is nearest (`nearest_pal6_lt`); between equal
endpoints they are entry 0. -/
theorem encoderNeverUsesAnchors : Obligations.EncoderNeverUsesAnchors := by
  intro tie ss hlen
  obtain ⟨e0, e1, hext, henc⟩ := encodeSamples_eq_candidate tie hlen
  rw [henc]
  refine ⟨fun hle i hi => ?_, fun heq i hi => ?_⟩ <;> obtain ⟨s, hs, rfl⟩ := List.mem_map.mp hi <;>
    have hbetween := mem_uIcc_of_extremes hext hs
  · have hle : e0.toNat ≤ e1.toNat := BitVec.le_def.mp hle
    rw [Set.uIcc_of_le hle] at hbetween
    rw [palette_of_le hle]
    exact nearest_pal6_lt hbetween.1 hbetween.2
  · obtain rfl : e0 = e1 := heq
    rw [Set.uIcc_self] at hbetween
    rw [BitVec.eq_of_toNat_eq hbetween, nearest_first]

/-- Settles O21: every sample becomes its nearest entry, which is within one step of it (`nearestEntry_error`) and
between the endpoints, and the endpoints stay as they are. -/
theorem quantisationErrorBound : Obligations.QuantisationErrorBound := by
  intro tie ss k hlen hk
  obtain ⟨e0, e1, hext, henc⟩ := encodeSamples_eq_candidate tie hlen
  have hss : ss ≠ [] := List.ne_nil_of_length_pos (by omega)
  have hsample : ss.getD k 0#8 ∈ ss := by
    rw [List.getD_eq_getElem _ _ (hlen ▸ hk)]
    exact List.getElem_mem _
  have herror := nearestEntry_error (mem_uIcc_of_extremes hext hsample)
  have hdecoded : (ss.map (nearestEntry (palette e0 e1))).getD k 0#8 =
      nearestEntry (palette e0 e1) (ss.getD k 0#8) := by simp [hlen, hk]
  rw [blkEncode, henc, blkDecode_candidate _ _ hlen, hdecoded, ← absDiff_of_extremes hext hss]
  refine ⟨fun (hgt : e1 < e0) => ?_, fun (hle : e0 ≤ e1) => ?_, blockRange_nearestEntry hext hss⟩
  · rwa [paletteSteps_of_gt (BitVec.lt_def.mp hgt)] at herror
  · rwa [paletteSteps_of_le (BitVec.le_def.mp hle)] at herror

/-- Settles O29, by the checks it shares with BLK_DEC (`fixedSizeBody_rule`). -/
theorem blkEncRule : Obligations.BlkEncRule :=
  ⟨rfl, fun s hb hwf => fixedSizeBody_rule rfl hb hwf (opBody_blkEnc s)⟩

/-- Settles O30, by the checks it shares with BLK_ENC; the eight bytes read are those of `decodedSample`. -/
theorem blkDecRule : Obligations.BlkDecRule :=
  ⟨rfl, fun s hb hwf => fixedSizeBody_rule rfl hb hwf (opBody_blkDec s)⟩

end

/-! The plane codec (spec/42_plane.md R182 to R191): what the gathering and the two codecs hold at each address, and
the checks that PLN_ENC and PLN_DEC share. -/

namespace Sys2Proof.Machine

/-! ### The codecs by address (R183, R185, R186) -/

theorem gather_getD (p : Nat → Byte) (w h br bc : Nat) {k : Nat} (hk : k < 16) :
    (gather p w h br bc).getD k 0#8 = padded p w h (4 * bc + k % 4) (4 * br + k / 4) := by
  simp [gather, hk]

theorem padded_of_lt (p : Nat → Byte) {w h x y : Nat} (hx : x < w) (hy : y < h) :
    padded p w h x y = p (y * w + x) := by
  rw [padded, addrPl, min_eq_left (Nat.le_sub_one_of_lt hx), min_eq_left (Nat.le_sub_one_of_lt hy)]

/-- Every sample of a plane is one of the block that holds it. -/
theorem gather_getD_of_lt (p : Nat → Byte) {w h x y : Nat} (hx : x < w) (hy : y < h) :
    (gather p w h (y / 4) (x / 4)).getD (4 * (y % 4) + x % 4) 0#8 = p (y * w + x) := by
  have hcol : 4 * (x / 4) + (4 * (y % 4) + x % 4) % 4 = x := by omega
  have hrow : 4 * (y / 4) + (4 * (y % 4) + x % 4) / 4 = y := by omega
  rw [gather_getD _ _ _ _ _ (by omega), hcol, hrow, padded_of_lt p hx hy]

theorem plnEncode_getD (tie : ModeTie) (p : Nat → Byte) {w h a : Nat} (ha : a < 8 * (cdiv4 w * cdiv4 h)) :
    (plnEncode tie p w h).getD a 0#8 = codedByte tie p w h (a / 8 / cdiv4 w) (a / 8 % cdiv4 w) (a % 8) := by
  have hbyte := getElem?_flatMap_range (plnEncodeBlock tie p w h) 8 _ (a / 8) (a % 8)
    (by simp [plnEncodeBlock]) (Nat.div_lt_of_lt_mul ha) (Nat.mod_lt a (by decide))
  rw [Nat.div_add_mod] at hbyte
  rw [List.getD_eq_getElem?_getD, plnEncode, hbyte, plnEncodeBlock, ← List.getD_eq_getElem?_getD, codedByte]

theorem plnDecode_getD (e : Nat → Byte) {w h a : Nat} (ha : a < w * h) :
    (plnDecode e w h).getD a 0#8 = plnDecodeSample e w (a % w) (a / w) := by
  simp [plnDecode, ha]

theorem plnDecodeSample_eq_decodedSample (e : Nat → Byte) (w x y : Nat) :
    plnDecodeSample e w x y = decodedSample e (8 * (y / 4 * cdiv4 w + x / 4)) (4 * (y % 4) + x % 4) := rfl

/-! ### The round trip (R191) -/

/-- The eight bytes at a block's address in an encoded plane are the encoder's. -/
theorem plnEncode_block (tie : ModeTie) (p : Nat → Byte) {w h br bc : Nat} (hr : br < cdiv4 h) (hc : bc < cdiv4 w) :
    ((List.range 8).map fun i => (plnEncode tie p w h).getD (addrPb (cdiv4 w) br bc + i) 0#8) =
      blkEncode tie (gather p w h br bc) := by
  rw [← map_range_getD (blkEncode_length tie (gather p w h br bc))]
  refine List.map_congr_left fun i hi => ?_
  rw [List.getD_eq_getElem?_getD, List.getD_eq_getElem?_getD,
    getElem?_plnEncode tie p w h br bc i hr hc (List.mem_range.mp hi)]

/-- A sample of a plane encoded and decoded is a sample of its block encoded and decoded. -/
theorem plnDecodeSample_plnEncode (tie : ModeTie) (p : Nat → Byte) {w h x y : Nat} (hx : x < w) (hy : y < h) :
    plnDecodeSample (fun i => (plnEncode tie p w h).getD i 0#8) w x y =
      (blkDecode (blkEncode tie (gather p w h (y / 4) (x / 4)))).getD (4 * (y % 4) + x % 4) 0#8 := by
  rw [plnDecodeSample, plnEncode_block tie p (div_four_lt_cdiv4 y h hy) (div_four_lt_cdiv4 x w hx)]

/-- The coarser of the two bounds of R159, which holds in either mode. -/
theorem five_mul_error_le_blockRange (tie : ModeTie) {ss : List Byte} {k : Nat} (hlen : ss.length = 16) (hk : k < 16) :
    5 * absDiff ((blkDecode (blkEncode tie ss)).getD k 0#8) (ss.getD k 0#8) ≤
      (blockMax ss).toNat - (blockMin ss).toNat := by
  obtain ⟨hseventh, hfifth, -⟩ := quantisationErrorBound tie ss k hlen hk
  obtain hgt | hle := Nat.lt_or_ge (encodeSamples tie ss).e1.toNat (encodeSamples tie ss).e0.toNat
  · exact (Nat.mul_le_mul_right _ (by decide)).trans (hseventh (BitVec.lt_def.mpr hgt))
  · exact hfifth (BitVec.le_def.mpr hle)

/-! ### PLN_ENC and PLN_DEC (R188, R190) -/

theorem zeroArea_iff (w h : Dim) : zeroArea w h = true ↔ w.toNat = 0 ∨ h.toNat = 0 := by
  simp [zeroArea, ← BitVec.toNat_inj]

/-- An operation on `n` bytes of input and `m` of output, the numbers that WIDTH and HEIGHT ask for: the checks of R188
and R190, in their order. -/
def sizedBody (n m : Nat) (out : List Byte) (s : State) : Except ErrKind Completion :=
  if s.inputTooLong then .error .capacity
  else if zeroArea s.width s.height then .error .dimension
  else if s.srcLen.toNat ≠ n then .error .dimension
  else if s.outputTooLong m then .error .capacity
  else .ok { len := m, out := out, dims := none }

theorem opBody_plnEnc (s : State) : opBody .plnEnc s =
    sizedBody (s.width.toNat * s.height.toNat) (8 * blockCount s.width s.height)
      (plnEncode s.params.modeTie s.srcByte s.width.toNat s.height.toNat) s := rfl

theorem opBody_plnDec (s : State) : opBody .plnDec s =
    sizedBody (8 * blockCount s.width s.height) (s.width.toNat * s.height.toNat)
      (plnDecode s.srcByte s.width.toNat s.height.toNat) s := rfl

/-- Without a zero dimension, the checks that are left are those of an operation of fixed sizes. -/
theorem sizedBody_of_area {s : State} (n m : Nat) (out : List Byte)
    (hz : ¬ (s.width.toNat = 0 ∨ s.height.toNat = 0)) :
    sizedBody n m out s = fixedSizeBody n m .dimension out s := by
  rw [sizedBody, if_neg (mt (zeroArea_iff _ _).mp hz), fixedSizeBody]

/-- Only the output's bytes below its length count. -/
theorem succeeds_congr {i : Instr} {s : State} {n : Nat} {out out' : Nat → Byte} {w h : Dim}
    (hs : succeeds i s n out w h) (hout : ∀ a, a < n → out a = out' a) : succeeds i s n out' w h := by
  obtain ⟨t, hexec, hstatus, hlen, hdst, hrest⟩ := hs
  exact ⟨t, hexec, hstatus, hlen, fun a ha => hout a ha ▸ hdst a ha, hrest⟩

/-- The end of such an operation in each outcome of its checks. -/
theorem sizedBody_rule {i : Instr} {op : Op} {s : State} {n m : Nat} {bs : List Byte} {out : Nat → Byte}
    (hi : i.operation = some op) (hb : s.busy = false) (hwf : s.dst.wf = true)
    (ho : opBody op s = sizedBody n m bs s) (hout : ∀ a, a < m → bs.getD a 0#8 = out a) :
    (s.params.srcCap.toNat < s.srcLen.toNat → endsInError i s (statusDoneErr .capacity)) ∧
    (s.srcLen.toNat ≤ s.params.srcCap.toNat →
      (s.width.toNat = 0 ∨ s.height.toNat = 0 → endsInError i s (statusDoneErr .dimension)) ∧
      (0 < s.width.toNat → 0 < s.height.toNat →
        (s.srcLen.toNat ≠ n → endsInError i s (statusDoneErr .dimension)) ∧
        (s.srcLen.toNat = n →
          (s.params.dstCap.toNat < m → endsInError i s (statusDoneErr .capacity)) ∧
          (m ≤ s.params.dstCap.toNat → succeeds i s m out s.width s.height)))) := by
  refine ⟨fun hlong => ?_, fun hlen => ⟨fun hz => ?_, fun hw hh => ?_⟩⟩
  · exact endsInError_of_body hi hb (ho.trans (if_pos ((inputTooLong_iff s).mpr hlong)))
  · have hshort := mt (inputTooLong_iff s).mp (Nat.not_lt.mpr hlen)
    exact endsInError_of_body hi hb (ho.trans ((if_neg hshort).trans (if_pos ((zeroArea_iff _ _).mpr hz))))
  · obtain ⟨-, hchecks⟩ := fixedSizeBody_rule hi hb hwf (ho.trans (sizedBody_of_area n m bs (by omega)))
    obtain ⟨hwrong, hright⟩ := hchecks hlen
    exact ⟨hwrong, fun heq => ⟨(hright heq).1, fun hfits => succeeds_congr ((hright heq).2 hfits) hout⟩⟩

end Sys2Proof.Machine

section

open Sys2Proof Sys2Proof.Machine

/-- Settles O22: the two coordinates are clamped into the plane (`padded`), so their address is below its end
(`rowMajor_lt`). -/
theorem gatherClampsToEdges : Obligations.GatherClampsToEdges := by
  intro p w h br bc i j hw hh hi hj
  have hcol : (4 * j + i) % 4 = i := by omega
  have hrow : (4 * j + i) / 4 = j := by omega
  refine ⟨gather_length p w h br bc, ?_, rowMajor_lt w h _ _ (by omega) (by omega)⟩
  rw [gather_getD _ _ _ _ _ (by omega), hcol, hrow, padded, addrPl]

/-- Settles O23: the sample goes through its block's round trip (`plnDecodeSample_plnEncode`), which R159 bounds. -/
theorem planeRoundTripBound : Obligations.PlaneRoundTripBound := by
  intro tie p w h x y hx hy
  refine ⟨?_, plnDecode_length _ w h⟩
  rw [plnDecode_getD _ (rowMajor_lt w h x y hx hy), rowMajor_mod w x y hx, rowMajor_div w x y hx,
    plnDecodeSample_plnEncode tie p hx hy, ← gather_getD_of_lt p hx hy]
  exact five_mul_error_le_blockRange tie (gather_length ..) (by omega)

/-- Settles O31, by the checks it shares with PLN_DEC (`sizedBody_rule`) and the byte at each address
(`plnEncode_getD`). -/
theorem plnEncRule : Obligations.PlnEncRule := by
  refine ⟨rfl, fun s w h cols n hb hwf hw hh hcols hn => ?_⟩
  subst hw hh hcols hn
  exact sizedBody_rule rfl hb hwf (opBody_plnEnc s) fun a ha => plnEncode_getD _ _ ha

/-- Settles O32, by the checks it shares with PLN_ENC, and the decoded sample at each address (`plnDecode_getD`). -/
theorem plnDecRule : Obligations.PlnDecRule := by
  refine ⟨rfl, fun s w h cols n hb hwf hw hh hcols hn => ?_⟩
  subst hw hh hcols hn
  exact sizedBody_rule rfl hb hwf (opBody_plnDec s) fun a ha =>
    (plnDecode_getD _ ha).trans (plnDecodeSample_eq_decodedSample ..)

end

/-! The image codec (spec/43_image.md R200 to R206): the byte at each address of an encoded and of a decoded image, and
the checks of IMG_DEC. -/

namespace Sys2Proof.Machine

/-! ### The encoded image (R201, R203) -/

/-- After the header, byte `a` of an encoded image is a byte of its channel's block (`getElem?_imgEncode_block`). -/
theorem imgEncode_getD (tie : ModeTie) (img : Nat → Byte) {w h : Dim} {a : Nat} (ha : a < 12 + 16 * blockCount w h) :
    (imgEncode tie img w h).getD a 0#8 =
      if a < 12 then (hdrBytes w h).getD a 0#8
      else codedByte tie (channelPlane img ((a - 12) / 8 % 2)) w.toNat h.toNat
        ((a - 12) / 16 / cdiv4 w.toNat) ((a - 12) / 16 % cdiv4 w.toNat) ((a - 12) % 8) := by
  simp only [List.getD_eq_getElem?_getD, codedByte]
  split
  next hheader => rw [getElem?_imgEncode_header _ _ _ _ _ hheader]
  next hbody =>
    have hk : (a - 12) / 16 < cdiv4 w.toNat * cdiv4 h.toNat := by
      rw [blockCount] at ha
      omega
    have hcols : 0 < cdiv4 w.toNat := Nat.pos_of_mul_pos_right (Nat.zero_lt_of_lt hk)
    rw [← getElem?_imgEncode_block tie img w h _ _ _ _ (Nat.div_lt_of_lt_mul hk) (Nat.mod_lt _ hcols)
      (Nat.mod_lt _ (by decide)) (Nat.mod_lt _ (by decide)), addrSb, Nat.div_add_mod']
    congr 2
    omega

theorem opBody_imgEnc (s : State) : opBody .imgEnc s =
    sizedBody (4 * s.width.toNat * s.height.toNat) (12 + 16 * blockCount s.width s.height)
      (imgEncode s.params.modeTie s.srcByte s.width s.height) s := rfl

/-! ### The decoded image (R204, R205) -/

/-- The block stream of a channel takes eight bytes of every sixteen of the body (R201, R204). -/
theorem channelStream_block (t : Nat → Byte) (ch k : Nat) {i : Nat} (hi : i < 8) :
    channelStream t ch (8 * k + i) = t (12 + 16 * k + 8 * ch + i) := by
  rw [channelStream, Nat.mul_add_div (by decide), Nat.mul_add_mod, Nat.div_eq_of_lt hi, Nat.mod_eq_of_lt hi,
    Nat.add_zero]

theorem imgDecodeSample_eq_decodedSample (t : Nat → Byte) (w ch x y : Nat) :
    imgDecodeSample t w ch x y =
      decodedSample t (12 + 16 * (y / 4 * cdiv4 w + x / 4) + 8 * ch) (4 * (y % 4) + x % 4) := by
  rw [imgDecodeSample, plnDecodeSample]
  simp only [addrPb]
  rw [List.map_congr_left fun i hi => channelStream_block t ch _ (List.mem_range.mp hi)]
  rfl

theorem imgDecode_getD (half : RoundHalf) (mode : BitVec 2) (t : Nat → Byte) {w h a : Nat} (ha : a < 4 * w * h) :
    (imgDecode half mode t w h).getD a 0#8 = (imgDecodePixel half mode t w (a / 4)).getD (a % 4) 0#8 := by
  have hpixel : a / 4 < w * h := Nat.div_lt_of_lt_mul (by rwa [← Nat.mul_assoc])
  have hbyte := getElem?_flatMap_range (imgDecodePixel half mode t w) 4 _ (a / 4) (a % 4)
    (by simp [imgDecodePixel]) hpixel (Nat.mod_lt a (by decide))
  rw [Nat.div_add_mod] at hbyte
  rw [List.getD_eq_getElem?_getD, imgDecode, hbyte, ← List.getD_eq_getElem?_getD]

/-! ### The checks of IMG_DEC (R206) -/

theorem imgDecBody_of_overlong {s : State} (hlong : s.params.srcCap.toNat < s.srcLen.toNat) :
    imgDecBody s = .error .capacity := if_pos ((inputTooLong_iff s).mpr hlong)

theorem imgDecBody_of_noHeader {s : State} (hlen : s.srcLen.toNat ≤ s.params.srcCap.toNat)
    (hd : s.srcHeader = none) : imgDecBody s = .error .format := by
  simp [imgDecBody, inputTooLong_iff, Nat.not_lt.mpr hlen, hd]

/-- The checks that are left once SRC holds a header, which takes the first 12 bytes of SRC. -/
theorem imgDecBody_of_header {s : State} {w h : Dim} (hlen : s.srcLen.toNat ≤ s.params.srcCap.toNat)
    (hlong : 12 ≤ s.srcLen.toNat) (hd : s.srcHeader = some (w, h)) :
    imgDecBody s =
      if w.toNat = 0 ∨ h.toNat = 0 then .error .dimension
      else if s.srcLen.toNat ≠ 12 + 16 * blockCount w h then .error .format
      else if s.params.dstCap.toNat < 4 * w.toNat * h.toNat then .error .capacity
      else .ok
        { len := 4 * w.toNat * h.toNat
          out := imgDecode s.params.roundHalf s.blueMode s.srcByte w.toNat h.toNat
          dims := some (w, h) } := by
  have hbody : s.srcLen.toNat - 12 ≠ 16 * blockCount w h ↔ s.srcLen.toNat ≠ 12 + 16 * blockCount w h := by omega
  simp only [imgDecBody, inputTooLong_iff, Nat.not_lt.mpr hlen, hd, zeroArea_iff, outputTooLong_iff, hbody, if_false]

end Sys2Proof.Machine

section

open Sys2Proof Sys2Proof.Machine

/-- Settles O33, by the checks it shares with the operations on a plane (`sizedBody_rule`) and the byte at each address
(`imgEncode_getD`). -/
theorem imgEncRule : Obligations.ImgEncRule := by
  refine ⟨rfl, fun s w h cols n hb hwf hw hh hcols hn => ?_⟩
  subst hw hh hcols hn
  exact sizedBody_rule rfl hb hwf (opBody_imgEnc s) fun a ha => imgEncode_getD _ _ ha

/-- Settles O34: SRC_LEN and the header are checked as HDR_DEC checks them, then the checks of
`imgDecBody_of_header` in their order; a decoded pixel is the four bytes of `imgDecode_getD`. -/
theorem imgDecRule : Obligations.ImgDecRule := by
  refine ⟨rfl, fun s w h cols n hb hwf hw hh hcols hn => ?_⟩
  subst hw hh hcols hn
  have fails := fun e ho => endsInError_of_body (i := .imgDec) (op := .imgDec) (e := e) rfl hb ho
  refine ⟨fun hlong => fails _ (imgDecBody_of_overlong hlong), fun hlen =>
    ⟨fun hshort => fails _ (imgDecBody_of_noHeader hlen (srcHeader_of_short hshort)), fun hlong =>
    ⟨fun hmagic => fails _ (imgDecBody_of_noHeader hlen (srcHeader_of_not_magicInSrc hmagic)), fun hmagic => ?_⟩⟩⟩
  have ho := imgDecBody_of_header hlen hlong (srcHeader_of_magicInSrc hlong hmagic)
  refine ⟨fun hz => fails _ (ho.trans (if_pos hz)), fun hw hh => ?_⟩
  replace ho := ho.trans (if_neg (by omega))
  refine ⟨fun hne => fails _ (ho.trans (if_pos hne)), fun heq => ?_⟩
  replace ho := ho.trans (if_neg (not_not_intro heq))
  refine ⟨fun hsmall => fails _ (ho.trans (if_pos hsmall)), fun hfits chan hchan => ?_⟩
  replace ho := ho.trans (if_neg (Nat.not_lt.mpr hfits))
  refine succeeds_of_body (op := .imgDec) rfl hb hwf ho fun a ha => ?_
  have hsample := fun c => (imgDecodeSample_eq_decodedSample s.srcByte (s.dimInSrc 4).toNat c _ _).trans
    (hchan c (a / 4)).symm
  rw [imgDecode_getD _ _ _ ha, imgDecodePixel, hsample, hsample]
  obtain hc | hc | hc | hc : a % 4 = 0 ∨ a % 4 = 1 ∨ a % 4 = 2 ∨ a % 4 = 3 := by omega
  all_goals rw [hc]; rfl

end

/-! The blue function (spec/44_blue.md R224 to R226) and BLUE (R227). -/

namespace Sys2Proof.Machine

/-! ### The radicand `N` (R224) -/

theorem isqrt_eq_sqrt (n : Nat) : isqrt n = Nat.sqrt n := Nat.eq_sqrt.mpr (isqrt_bounds n)

theorem mul_self_emod_eight_of_odd {x : Int} (hx : Odd x) : x * x % 8 = 1 := by
  have hdvd := Int.eight_dvd_sq_sub_one_of_odd hx
  rw [sq] at hdvd
  omega

theorem mul_self_emod_eight_ne_seven (x : Int) : x * x % 8 ≠ 7 := by
  obtain heven | hodd := Int.even_or_odd x
  · have heven := heven.mul_left x
    rw [Int.even_iff] at heven
    omega
  · rw [mul_self_emod_eight_of_odd hodd]
    decide

/-- The coordinate `2v - 255` of a byte (R224). -/
theorem odd_two_mul_sub_255 (v : Int) : Odd (2 * v - 255) := ⟨v - 128, by omega⟩

theorem normalN_emod_eight (r g : Byte) : normalN r g % 8 = 7 := by
  have ha := mul_self_emod_eight_of_odd (odd_two_mul_sub_255 r.toNat)
  have hb := mul_self_emod_eight_of_odd (odd_two_mul_sub_255 g.toNat)
  rw [normalN]
  omega

theorem normalN_le (r g : Byte) : normalN r g ≤ 65025 := by
  have ha := mul_self_nonneg (2 * (r.toNat : Int) - 255)
  have hb := mul_self_nonneg (2 * (g.toNat : Int) - 255)
  rw [normalN]
  omega

theorem normalN_comm (r g : Byte) : normalN r g = normalN g r := sub_right_comm ..

theorem normalN_reflect (r g : Byte) : normalN (255#8 - r) g = normalN r g := by
  have hcoord : 2 * ((255#8 - r).toNat : Int) - 255 = -(2 * (r.toNat : Int) - 255) := by bv_omega
  rw [normalN, hcoord, neg_mul_neg, normalN]

/-! ### ComputeNormal (R224) -/

/-- `N` is at most 65025, so the sum of R224 stays below 512 and its half is a byte. -/
theorem blueNormal_toNat_of_pos (half : RoundHalf) {r g : Byte} (hpos : 0 < normalN r g) :
    (blueNormal half r g).toNat = (256 + (normalN r g).toNat.sqrt) / 2 := by
  have hroot : (normalN r g).toNat.sqrt < 256 :=
    Nat.sqrt_lt.mpr (by have := normalN_le r g; omega)
  have hblue : blueNormal half r g = BitVec.ofNat 8 ((256 + isqrt (normalN r g).toNat) / 2) := if_pos hpos
  rw [hblue, isqrt_eq_sqrt, BitVec.toNat_ofNat]
  omega

theorem blueNormal_up_of_nonpos {r g : Byte} (hnonpos : ¬ 0 < normalN r g) : blueNormal .up r g = 128#8 :=
  if_neg hnonpos

theorem blueNormal_down_of_nonpos {r g : Byte} (hnonpos : ¬ 0 < normalN r g) : blueNormal .down r g = 127#8 :=
  if_neg hnonpos

theorem le_blueNormal (half : RoundHalf) (r g : Byte) :
    127 ≤ (blueNormal half r g).toNat ∧ (half = .up → 128 ≤ (blueNormal half r g).toNat) := by
  by_cases hpos : 0 < normalN r g
  · rw [blueNormal_toNat_of_pos _ hpos]
    exact ⟨by omega, fun _ => by omega⟩
  · cases half with
    | up =>
      rw [blueNormal_up_of_nonpos hpos]
      decide
    | down =>
      rw [blueNormal_down_of_nonpos hpos]
      decide

/-- ComputeNormal depends on its bytes by `N` alone. -/
theorem blueNormal_congr (half : RoundHalf) {r g r' g' : Byte} (h : normalN r g = normalN r' g') :
    blueNormal half r g = blueNormal half r' g' := by
  unfold blueNormal
  rw [h]

/-! ### BLUE (R227) -/

theorem opBody_blue (s : State) : opBody .blue s =
    fixedSizeBody 2 1 .dimension [blue s.params.roundHalf s.blueMode (s.srcByte 0) (s.srcByte 1)] s := rfl

end Sys2Proof.Machine

section

open Sys2Proof Sys2Proof.Machine

/-- Settles O25: odd squares are 1 modulo 8, so `N` is 7 (`normalN_emod_eight`), which no square is; the two bounds on
`t` make it the root (`blueNormal_toNat_of_pos`). -/
theorem computeNormalValue : Obligations.ComputeNormalValue := by
  intro half r g a b n ha hb hn
  obtain rfl : n = normalN r g := by rw [hn, ha, hb, normalN]
  have hmod := normalN_emod_eight r g
  refine ⟨by omega, hmod, fun t ht => mul_self_emod_eight_ne_seven t (ht ▸ hmod), fun hpos t hlo hhi => ?_,
    fun hneg => ?_, le_blueNormal half r g⟩
  · have hroot : t = (normalN r g).toNat.sqrt := Nat.eq_sqrt.mpr
      ⟨Int.le_toNat hpos.le |>.mpr (by exact_mod_cast hlo), Int.toNat_lt hpos.le |>.mpr (by exact_mod_cast hhi)⟩
    rw [hroot]
    exact blueNormal_toNat_of_pos half hpos
  · cases half with
    | up => exact blueNormal_up_of_nonpos hneg.not_gt
    | down => exact blueNormal_down_of_nonpos hneg.not_gt

/-- Settles O26: `N` is symmetric and its coordinates change sign under reflection, which their squares do not see. -/
theorem computeNormalSymmetry : Obligations.ComputeNormalSymmetry :=
  fun half r g => ⟨blueNormal_congr half (normalN_comm r g), blueNormal_congr half (normalN_reflect r g).symm⟩

/-- Settles O35, by the checks it shares with BLK_ENC (`fixedSizeBody_rule`); the one output byte is `blue` in the mode
of BLUEMODE. -/
theorem blueRule : Obligations.BlueRule := by
  refine ⟨rfl, fun s hb hwf => ?_⟩
  obtain ⟨hlong, hchecks⟩ := fixedSizeBody_rule (i := .blue) rfl hb hwf (opBody_blue s)
  refine ⟨hlong, fun hlen => ?_⟩
  obtain ⟨hwrong, hright⟩ := hchecks hlen
  refine ⟨hwrong, fun heq => ?_⟩
  obtain ⟨hsmall, hsucceeds⟩ := hright heq
  refine ⟨hsmall, fun hfits => ?_⟩
  have hblue : ∀ v, blue s.params.roundHalf s.blueMode (s.srcByte 0) (s.srcByte 1) = v →
      succeeds .blue s 1 (fun _ => v) s.width s.height := fun v hv =>
    succeeds_congr (hsucceeds hfits) fun a ha => by rw [Nat.lt_one_iff.mp ha]; exact hv
  refine ⟨fun hmode => hblue _ ?_, fun hmode => hblue _ ?_, fun hmode => hblue _ ?_, fun hmode => hblue _ ?_⟩
  all_goals rw [hmode]; rfl

end

/-! The illegal operation (spec/60_exceptions.md R233), which every reserved CMD value starts. -/

namespace Sys2Proof.Machine

theorem opBody_illegal (s : State) : opBody .illegal s = .error .illegalCmd := rfl

theorem endsInError_of_illegal {i : Instr} {s : State} (hi : i.operation = some .illegal) (hb : s.busy = false) :
    endsInError i s (statusDoneErr .illegalCmd) :=
  endsInError_of_body hi hb (opBody_illegal s)

/-- A CMD value outside 1 to 9 selects the illegal operation (R101). -/
theorem operation_decodeCmd_of_reserved {c : BitVec 32} (hc : c.toNat = 0 ∨ 10 ≤ c.toNat) :
    (decodeCmd c).operation = some .illegal :=
  (operation_decodeCmd c).trans (congrArg some (opOfCmd_of_reserved hc))

end Sys2Proof.Machine

section

open Sys2Proof Sys2Proof.Machine

/-- Settles O36: each reserved row, and the row of each value outside 1 to 9, starts the illegal operation, whose body
is an error in every state (`endsInError_of_illegal`). -/
theorem reservedCommandsAreIllegal : Obligations.ReservedCommandsAreIllegal := by
  intro s op zero hb
  have illegal := fun (i : Instr) (hi : i.operation = some .illegal) => endsInError_of_illegal hi hb
  exact ⟨fun c hc => illegal _ (operation_decodeCmd_of_reserved hc), illegal .reserved0 rfl,
    illegal .reserved10 rfl, illegal .reserved11 rfl, illegal .reserved12 rfl, illegal .reserved13 rfl,
    illegal .reserved14 rfl, illegal .reserved15 rfl, illegal (.reservedUpper op zero) rfl⟩

end

/-! The ownership window (spec/70_reset_and_hazards.md R261, R265, R266): a request as the access it makes, the CORE
with no operation running, and what each action of the HOST can do to the window. -/

namespace Sys2Proof.Machine

/-! ### Requests as accesses -/

theorem execRequest_cmd (c : BitVec 32) (s : State) :
    execRequest (.cmd c) s = runOperation (opBody (opOfCmd c)) s :=
  (execRequest_of_decode _ _ s rfl).trans (exec_of_operation _ _ s (operation_decodeCmd c))

/-- A register request is the access to that register, a reserved number included (R24). -/
theorem execRequest_encodeReg (n : Nat) (x : RegAccess) (s : State) :
    execRequest (encodeReg n x) s = accessReg n x s := by
  have hd := decode_encodeReg n x
  cases hn : decodeReg n x with
  | ok i => rw [execRequest_of_decode _ i s (hd.trans hn), exec_of_register i n x s (register_of_decodeReg hn)]
  | error e =>
    rw [execRequest_of_reject (hd.trans hn)]
    cases x <;> rfl

theorem datum_of_encode {i : Instr} {f : DataFormat} {a : Len} {bs : List Byte} (h : encode i = .put f a bs) :
    i.datum = some (a, bs) := by
  cases i with
  | regCmd x | regStatus x | regWidth x | regHeight x | regBluemode x | regSrcLen x | regDstLen x =>
    cases x <;> cases h
  | _ => cases h <;> rfl

/-- Bytes are put in SRC as they are, whether or not they are of the layout the HOST names (R108). -/
theorem execRequest_put (f : DataFormat) (a : Len) (bs : List Byte) (s : State) :
    execRequest (.put f a bs) s = putSrc a bs s := by
  cases hd : decode (.put f a bs) with
  | ok i => rw [execRequest_of_decode _ i s hd, exec_of_datum i a bs s (datum_of_encode (encode_of_decodeData hd).2)]
  | error e => exact execRequest_of_reject hd s

/-! ### The CORE -/

/-- With no operation running the CORE does nothing (R261). -/
theorem coreMove_of_seq_none {s : State} (h : s.seq = none) : coreMove s = s := by simp [coreMove, h]

/-- A move of the CORE touches the window only to end an operation, and leaves it open (R266). -/
theorem coreMove_window (s : State) :
    (coreMove s).window = s.window ∨ s.seq ≠ none ∧ (coreMove s).window ≠ none := by
  obtain ⟨-, he⟩ | ⟨_, _, hs, -, he⟩ | ⟨_, _, -, -, -, he⟩ | ⟨_, _, -, -, -, he⟩ | ⟨_, _, hs, -, -, he⟩ :=
    coreMove_cases s <;> rw [he]
  · exact .inl rfl
  · exact .inr ⟨by simp [hs], by simp⟩
  · exact .inl rfl
  · exact .inl rfl
  · exact .inr ⟨by simp [hs], by simp⟩

/-! ### The HOST's accesses -/

theorem putSrc_window {a : Len} {bs : List Byte} {s t : State} (h : putSrc a bs s = .next t) :
    t.window = s.window := by
  obtain ⟨-, he⟩ | ⟨-, -, he⟩ | ⟨-, -, he⟩ := putSrc_cases a bs s <;> rw [he] at h <;> cases h
  exact storeSrc_window _ _ s

theorem putDst_window {a : Len} {bs : List Byte} {s t : State} (h : putDst a bs s = .next t) :
    t.window = s.window := by
  obtain ⟨-, he⟩ | ⟨-, -, he⟩ | ⟨-, -, he⟩ := putDst_cases a bs s <;> rw [he] at h <;> cases h
  rfl

theorem getDst_window {a : Len} {n : Nat} {s t : State} (h : getDst a n s = .next t) : t.window = s.window := by
  obtain ⟨-, -, he⟩ | ⟨-, -, he⟩ | ⟨-, he⟩ := getDst_cases a n s <;> rw [he] at h <;> cases h <;> rfl

theorem getSrc_window {a : Len} {n : Nat} {s t : State} (h : getSrc a n s = .next t) : t.window = s.window := by
  unfold getSrc at h
  split at h <;> cases h
  rfl

/-- Of the registers only CMD opens the window by a write; WIDTH and HEIGHT change what an open one covers (R266). -/
theorem writeReg_window (s : State) (n v : Nat) :
    ((s.writeReg n v).window = none ↔ s.window = none) ∨ n = 0 ∧ (s.writeReg n v).window ≠ none := by
  obtain he | ⟨-, hn, he⟩ | ⟨-, -, he⟩ | ⟨-, -, he⟩ | ⟨-, -, he⟩ | ⟨-, -, he⟩ := writeReg_cases s n v <;> rw [he]
  · exact .inl .rfl
  · exact .inr ⟨hn, by simp⟩
  · exact .inl Option.map_eq_none_iff
  · exact .inl Option.map_eq_none_iff
  · exact .inl .rfl
  · exact .inl .rfl

theorem runOperation_window {body : State → Except ErrKind Completion} {s t : State}
    (h : runOperation body s = .next t) : t.window = s.window ∨ t.window ≠ none := by
  obtain ⟨-, he⟩ | ⟨_, -, -, he⟩ | ⟨_, -, -, he⟩ := runOperation_cases body s <;> rw [he] at h <;> cases h
  · exact .inl rfl
  · exact .inr (by simp)
  · exact .inr (by simp)

/-! ### The window along an action of the HOST -/

/-- What the HOST's action `a` does to the window of `s`, the next state being `t` (R266). -/
inductive WindowMove (a : HostAction) (s t : State) : Prop where
  /-- It is open after the action exactly when it was open before. -/
  | kept (h : t.window = none ↔ s.window = none)
  /-- A running operation ended. -/
  | ended (hrunning : s.seq ≠ none) (hopen : t.window ≠ none)
  /-- A value was run whole or written to CMD. -/
  | started (hcmd : (∃ c, a = .request (.cmd c)) ∨ ∃ v, a = .request (.regWrite 0 v)) (hopen : t.window ≠ none)
  /-- A STATUS read returned DONE = 1. -/
  | polled (hread : a = .request (.regRead 1) ∨ a = .wait) (hdone : statusDoneBit s.status = true)
      (hin : t.hostIn = .value s.status.toNat) (hclosed : t.window = none)
  /-- The reset input was asserted. -/
  | reset (h : a = .reset) (hclosed : t.window = none)

theorem WindowMove.of_eq {a : HostAction} {s t : State} (h : t.window = s.window) : WindowMove a s t :=
  .kept (h ▸ .rfl)

theorem windowMove_coreMove (a : HostAction) (s : State) : WindowMove a s (coreMove s) :=
  (coreMove_window s).elim .of_eq fun ⟨hrunning, hopen⟩ => .ended hrunning hopen

/-- A read of STATUS, by an action that is one. -/
theorem windowMove_read_status {a : HostAction} {s t : State} (ha : a = .request (.regRead 1) ∨ a = .wait)
    (h : accessReg 1 .read s = .next t) : WindowMove a s t := by
  rw [accessReg_read_status] at h
  cases h
  by_cases hdone : s.status.getLsbD 1 = true
  · exact .polled ha hdone rfl (if_pos hdone)
  · exact .of_eq (if_neg hdone)

theorem windowMove_execRequest {r : Request} {s t : State} (h : execRequest r s = .next t) :
    WindowMove (.request r) s t := by
  cases r with
  | cmd c =>
    rw [execRequest_cmd] at h
    exact (runOperation_window h).elim .of_eq (.started (.inl ⟨c, rfl⟩))
  | regRead n =>
    have h : accessReg n .read s = .next t := (execRequest_encodeReg n .read s).symm.trans h
    by_cases hn : n = 1
    · subst hn
      exact windowMove_read_status (.inl rfl) h
    · rw [accessReg_read_of_ne s hn] at h
      cases h
      exact .of_eq rfl
  | regWrite n v =>
    have h : accessReg n (.write v) s = .next t := (execRequest_encodeReg n (.write v) s).symm.trans h
    cases h
    obtain hkept | ⟨rfl, hopen⟩ := writeReg_window s n v
    · exact .kept hkept
    · exact .started (.inr ⟨v, rfl⟩) hopen
  | put f a bs =>
    rw [execRequest_put] at h
    exact .of_eq (putSrc_window h)

theorem windowMove_hostMove {a : HostAction} {s t : State} (h : hostMove a s = .next t) : WindowMove a s t := by
  cases a with
  | request r => exact windowMove_execRequest h
  | getDst a n => exact .of_eq (getDst_window h)
  | getSrc a n => exact .of_eq (getSrc_window h)
  | putDst a bs => exact .of_eq (putDst_window h)
  | wait =>
    cases hb : s.busy with
    | false => exact windowMove_read_status (.inr rfl) ((hostMove_wait_idle hb).symm.trans h)
    | true =>
      rw [hostMove_wait_busy hb] at h
      cases h
      obtain hkept | ⟨hrunning, hopen⟩ := coreMove_window { s with script := .wait :: s.script }
      · exact .of_eq hkept
      · exact .ended hrunning hopen
  | idle => cases h; exact windowMove_coreMove .idle s
  | reset => cases h; exact .reset rfl rfl

/-! ### The window along a step -/

/-- A step is a move of the CORE, or the HOST's next action from the state whose script is past it. -/
theorem step_eq_next_cases {s t : State} (h : step s = .next t) :
    t = coreMove s ∨ ∃ a rest, s.script = a :: rest ∧ hostMove a { s with script := rest } = .next t := by
  cases hs : s.script with
  | nil => exact .inl (Host.Outcome.next.inj ((step_of_nil s hs).symm.trans h)).symm
  | cons a rest => exact .inr ⟨a, rest, rfl, (step_of_cons s a rest hs).symm.trans h⟩

/-- A CMD row, or an idle write of CMD, leaves the window open (R266). -/
theorem exec_opens_window {i : Instr} {s t : State} (hb : s.busy = false) (h : exec i s = .next t)
    (hi : i.operation ≠ none ∨ ∃ v, i = .regCmd (.write v)) : t.window ≠ none := by
  obtain hop | ⟨v, rfl⟩ := hi
  · obtain ⟨op, hop⟩ := Option.ne_none_iff_exists'.mp hop
    rw [exec_idle hop hb] at h
    cases h
    exact Option.isSome_iff_ne_none.mp (finish_window_isSome _ s)
  · rw [exec_of_register (.regCmd (.write v)) 0 (.write v) s rfl, accessReg, writeReg_cmd hb] at h
    cases h
    simp

theorem step_closes_window {s t : State} (h : step s = .next t) (hs : s.window ≠ none) (ht : t.window = none) :
    (∃ rest, s.script = .reset :: rest) ∨
    (statusDoneBit s.status = true ∧ t.hostIn = .value s.status.toNat ∧
      ∃ rest, s.script = .request (.regRead 1) :: rest ∨ s.script = .wait :: rest) := by
  obtain rfl | ⟨a, rest, hscript, hmove⟩ := step_eq_next_cases h
  · obtain hkept | ⟨-, hopen⟩ := coreMove_window s
    · exact absurd (hkept ▸ ht) hs
    · exact absurd ht hopen
  · rw [hscript]
    cases windowMove_hostMove hmove with
    | kept hkept => exact absurd (hkept.mp ht) hs
    | ended _ hopen | started _ hopen => exact absurd ht hopen
    | polled hread hdone hin _ => exact .inr ⟨hdone, hin, rest, by simpa using hread⟩
    | reset ha _ => exact .inl ⟨rest, ha ▸ rfl⟩

theorem step_opens_window {s t : State} (h : step s = .next t) (hseq : s.seq = none) (hs : s.window = none)
    (ht : t.window ≠ none) :
    ∃ rest, (∃ c, s.script = .request (.cmd c) :: rest) ∨ ∃ v, s.script = .request (.regWrite 0 v) :: rest := by
  obtain rfl | ⟨a, rest, hscript, hmove⟩ := step_eq_next_cases h
  · exact absurd ((congrArg State.window (coreMove_of_seq_none hseq)).trans hs) ht
  · rw [hscript]
    cases windowMove_hostMove hmove with
    | kept hkept => exact absurd (hkept.mpr hs) ht
    | ended hrunning _ => exact absurd hseq hrunning
    | started hcmd _ => exact ⟨rest, by simpa using hcmd⟩
    | polled _ _ _ hclosed | reset _ hclosed => exact absurd hclosed ht

end Sys2Proof.Machine

section

open Sys2Proof Sys2Proof.Machine

/-- Settles O56: what opens the window (`exec_opens_window`), and both ways of changing it read off from what each
action of the HOST does to it (`WindowMove`). -/
theorem ownershipWindow : Obligations.OwnershipWindow :=
  ⟨fun _ _ _ hb h hi => exec_opens_window hb h hi, fun _ _ => step_closes_window, fun _ _ => step_opens_window⟩

/-- Settles O3: with no operation running a move of the CORE changes nothing. -/
theorem idleCoreDoesNothing : Obligations.IdleCoreDoesNothing := by
  refine fun s hseq => ⟨fun hs => ?_, fun rest hs => ?_⟩
  · rw [step_of_nil s hs, coreMove_of_seq_none hseq]
  · rw [step_of_cons s _ rest hs, hostMove, coreMove_of_seq_none (s := { s with script := rest }) hseq]

end
